-- ==== Sys2Proof/Word.lean ====
section
/-! DEFINITION. The words of the A2S block: the widths spec/00_scope.md R8 and spec/10_state.md R20 give its values.
All values are unsigned. -/

namespace Sys2Proof

/-- A byte: a character (R10), a register as the host sees it (R20), a cell of an 8-bit buffer. -/
abbrev Byte := BitVec 8

/-- A 5-bit value: a bech32 data value, a cell of D5 (R39). -/
abbrev Quint := BitVec 5

/-- An offset of the register space, 9 bits, 0x000 to 0x1FF (R60). -/
abbrev Offset := BitVec 9

/-- A limb of the base58 accumulator, 32 bits (R5, R103). -/
abbrev Limb := BitVec 32

/-- A base58 digit, and the carry between limbs: 6 bits, 0 to 57 (R44, R103, R108). -/
abbrev Carry := BitVec 6

/-- The checksum residue and the shift register POLY, 30 bits (R28, R134). -/
abbrev Residue := BitVec 30

end Sys2Proof
end

