-- ==== Sys2Proof/Config.lean ====
section
/-! DEFINITION. What an implementation of the block fixes (spec/00_scope.md R5, R7) and the values the spec leaves free
(R6). -/

namespace Sys2Proof

/-- The configuration arguments of the block (R5, R7; the open parameters of spec/92_eei_decisions.md section 1):
AMAX, which the type keeps at most 255 (D3), and HAS_STRICT (D17). -/
structure Build where
  amax      : Fin 256
  hasStrict : Bool
  deriving DecidableEq, Repr

/-- The build the spec describes: AMAX = 128, with the strict-mode unit (R5, R7). -/
def Build.spec : Build := ⟨128, true⟩

/-- AMAX: capacity of ABUF and largest legal ALEN (R5). -/
def Build.AMAX (c : Build) : Nat := c.amax.val

/-- DMAX: capacity of D5 and largest legal D5LEN (R5). -/
def Build.DMAX (c : Build) : Nat := c.AMAX - 8

/-- PMAX: capacity of PROG and largest legal PLEN (R5). -/
def Build.PMAX (c : Build) : Nat := 5 * c.DMAX / 8

/-- SMAX: capacity of SCRIPT and largest SLEN (R5). -/
def Build.SMAX (c : Build) : Nat := c.PMAX + 2

/-- A build the rules can be followed in: AMAX is in the range of D3, and SCRIPT holds the 25 bytes that
spec/43_script.md R160 writes ("77 ≥ 25", R5), which needs AMAX ≥ 45 (log entry 7). -/
abbrev Build.legal (c : Build) : Prop := 8 ≤ c.AMAX ∧ 25 ≤ c.SMAX

namespace Config

/-- Limbs of the base58 accumulator (R5). -/
abbrev NLIMB : Nat := 7

/-- Bytes of the base58 payload (R5). -/
abbrev P58LEN : Nat := 25

/-- Bech32 checksum characters (R5). -/
abbrev CKLEN : Nat := 6

/-- What GARB32 gives for a string (R6): a version byte, an opcode byte, DMAX 5-bit values and PMAX bytes. -/
structure Garbage32 (c : Build) where
  wver : Byte
  wop  : Byte
  d5   : Vector Quint c.DMAX
  prog : Vector Byte c.PMAX
  deriving DecidableEq, Repr, Inhabited

/-- What GARBV gives for a string (R6): a version byte and an opcode byte. -/
structure GarbageV where
  wver : Byte
  wop  : Byte
  deriving DecidableEq, Repr, Inhabited

/-- GARB58 (R6, R106): the payload of a string that holds a byte outside the base58 alphabet, permissive mode.
A free value, log entry 4. -/
opaque garb58 : List Byte → Vector Byte P58LEN

/-- GARB32 (R6, R128): what a framed string with an invalid used data character decodes to, permissive mode; in a given
build a function of the string alone. A free value, log entry 4. -/
opaque garb32 : (c : Build) → List Byte → Garbage32 c

/-- GARBV (R6, R127): the two bytes of a string that is not framed, permissive mode. A free value, log entry 4. -/
opaque garbV : List Byte → GarbageV

end Config

end Sys2Proof
end

