-- ==== Sys2Proof/Syntax.lean ====
section
/-! DEFINITION. The syntax of the block: its nine commands (spec/30_encoding.md R83), the named locations of the
register space (spec/20_memory.md R62), the host's accesses (R86) and the host-operation assembly (R86 to R88). -/

namespace Sys2Proof

/-- The commands, one per row of the opcode map (R83). No command has an operand field (R80). -/
inductive Instr where
  | a2s
  | b58dec
  | b32dec
  | regrp
  | mkpkh
  | mksh
  | mkwp
  | chk32
  | clr
  deriving DecidableEq, Repr

/-- Why a byte string is no command (R84). -/
inductive DecodeReject where
  /-- There is no byte. -/
  | noByte
  /-- The byte is one of the illegal values of R84. -/
  | illegalByte (b : Byte)
  deriving DecidableEq, Repr

/-- The five buffers (spec/10_state.md R37 to R41). -/
inductive Buffer where
  | p58
  | script
  | prog
  | abuf
  | d5
  deriving DecidableEq, Repr

/-- The named locations of the register map (R62): a register, one of the four bytes of CHKRES, a buffer cell. -/
inductive Loc where
  | cmd
  | status
  | ctrl
  | argv
  | alen
  | isScript
  | isWitness
  | wver
  | wop
  | d5len
  | plen
  | slen
  | chkst
  | chkres (k : Fin 4)
  | cell (b : Buffer) (i : Nat)
  deriving DecidableEq, Repr

/-- A host operation: one bus access (R63, R86). -/
inductive Access where
  | read (off : Offset)
  | write (off : Offset) (data : Byte)
  deriving DecidableEq, Repr

/-- What can reach the block from outside: a host access (R11) or the reset input (R210). -/
inductive Input where
  | access (a : Access)
  | reset
  deriving DecidableEq, Repr

/-- The operand `<loc>` of the assembly: a named location or a number (R86). -/
inductive Place where
  | loc (l : Loc)
  | num (off : Offset)
  deriving DecidableEq, Repr

/-- A line of the host-operation assembly (R86 to R88). -/
inductive HostLine where
  | wr (p : Place) (b : Byte)
  | rd (p : Place)
  | command (i : Instr)
  | lda (text : List Byte)
  | args (s w : Byte)
  | call (text : List Byte) (s w : Byte)
  /-- `LDB NAME[k], h0 h1 ...`: the spec's `LDB NAME` is `k = 0` (log entry 12). -/
  | ldb (b : Buffer) (k : Nat) (bytes : List Byte)
  | strict (b : Byte)
  | expect (p : Place) (v : Byte)
  /-- `EXPECT NAME[a..) = h...`: one read per expected byte, in increasing order. -/
  | expectCells (b : Buffer) (a : Nat) (bytes : List Byte)
  deriving DecidableEq, Repr

end Sys2Proof
end

