-- ==== Sys2Proof/Decode.lean ====
section
/-! DEFINITION. Command encoding (spec/30_encoding.md R80 to R85), the register map as a code for offsets
(spec/20_memory.md R62), and the encoding of host operations as triples (R86). -/

namespace Sys2Proof

/-! ## The command byte -/

/-- The opcode map (R83): all eight bits are compared. Every byte not listed is illegal (R84), and 0x08 too in a
block without the strict-mode unit (R7, R84). -/
def decodeByteFor (hasStrict : Bool) (b : Byte) : Option Instr :=
  match b.toNat with
  | 0x01 => some .a2s
  | 0x02 => some .b58dec
  | 0x03 => some .b32dec
  | 0x04 => some .regrp
  | 0x05 => some .mkpkh
  | 0x06 => some .mksh
  | 0x07 => some .mkwp
  | 0x08 => if hasStrict then some .chk32 else none
  | 0x09 => some .clr
  | _    => none

/-- The opcode map of the build the spec describes. -/
def decodeByte (b : Byte) : Option Instr := decodeByteFor Build.spec.hasStrict b

/-- Decoding of a byte string: the first byte is the whole instruction (R80), the rest is left. -/
def decode : List Byte → Except DecodeReject (Instr × List Byte)
  | [] => .error .noByte
  | b :: rest =>
    match decodeByte b with
    | some i => .ok (i, rest)
    | none   => .error (.illegalByte b)

/-- The command byte of a command: RSV = 0b0000 on the more significant side of OP (R80), OP by R83. -/
def encodeByte (i : Instr) : Byte :=
  let op : BitVec 4 :=
    match i with
    | .a2s    => 0b0001
    | .b58dec => 0b0010
    | .b32dec => 0b0011
    | .regrp  => 0b0100
    | .mkpkh  => 0b0101
    | .mksh   => 0b0110
    | .mkwp   => 0b0111
    | .chk32  => 0b1000
    | .clr    => 0b1001
  0b0000#4 ++ op

/-- The words of a command: its one byte (R80). -/
def encode (i : Instr) : List Byte := [encodeByte i]

/-- The byte of a table word: bits 7:0 of the first `nbits` bits, everything above being 0. -/
def tableByte (nbits w : Nat) : Byte := BitVec.ofNat 8 (w % 2 ^ nbits)

/-- The command the decoder reads from a word of spec/opcode_table.json. -/
def decodeTableWord (nbits w : Nat) : Option Instr :=
  match decode [tableByte nbits w] with
  | .ok (i, _) => some i
  | .error _   => none

/-! ## The buffers and the register map -/

/-- Cells of a buffer, by the build (R5, R37 to R41). -/
def Buffer.capacity (c : Build) : Buffer → Nat
  | .p58    => Config.P58LEN
  | .script => c.SMAX
  | .prog   => c.PMAX
  | .abuf   => c.AMAX
  | .d5     => c.DMAX

/-- The address of cell 0 of a buffer in the model's memory. Commands reach the buffers by name, not by offset
(spec/20_memory.md R60), and no buffer of any build has more than 256 cells, so the five never meet (log entry 5). -/
def Buffer.base : Buffer → Nat
  | .p58    => 0x000
  | .script => 0x100
  | .prog   => 0x200
  | .abuf   => 0x300
  | .d5     => 0x400

/-- The addresses of a buffer's cells in a build. -/
def Buffer.holds (c : Build) (b : Buffer) (n : Nat) : Bool := b.base ≤ n && n < b.base + b.capacity c

/-- The buffer of a build an address lies in, if any. -/
def bufferAt (c : Build) (n : Nat) : Option Buffer :=
  [Buffer.p58, .script, .prog, .abuf, .d5].find? (·.holds c n)

/-- Offset of cell 0 of a buffer (R62). -/
def Buffer.firstOffset : Buffer → Nat
  | .p58    => 0x020
  | .script => 0x040
  | .prog   => 0x090
  | .abuf   => 0x100
  | .d5     => 0x180

/-- Offsets from a buffer's first one to the next buffer's, or to the end of the register space (R62). -/
def Buffer.window : Buffer → Nat
  | .p58    => 0x020
  | .script => 0x050
  | .prog   => 0x070
  | .abuf   => 0x080
  | .d5     => 0x080

/-- Cells of a buffer the host can name, from cell 0 on: those of the build that lie in the buffer's window. For AMAX
at most 128 they are all its cells; in a larger build the rest have no offset, which is the model's choice, since the
spec gives no map for it (log entry 15). -/
def Buffer.reach (c : Build) (b : Buffer) : Nat := min (b.capacity c) b.window

/-- The buffer in whose window an offset lies, if any (R62). -/
def bufferAtOffset (n : Nat) : Option Buffer :=
  [Buffer.p58, .script, .prog, .abuf, .d5].find? fun b => b.firstOffset ≤ n && n < b.firstOffset + b.window

/-- The buffer cell at an offset, if the build has it. For AMAX = 128 this is the map of R62; for another build, whose
map the spec does not give, the buffers stay where they are, and a cell outside its buffer's window has no offset
(log entry 15). -/
def cellAtOffset (c : Build) (n : Nat) : Option Loc :=
  match bufferAtOffset n with
  | some b => if n - b.firstOffset < b.reach c then some (.cell b (n - b.firstOffset)) else none
  | none   => none

/-- The offset of a location, as a number: cell i of a buffer is at its first offset plus i (R62, R86). A cell past
`Buffer.reach` has no offset, so the term that names it is ill-formed and this number means nothing (log entry 15). -/
def Loc.offsetNat : Loc → Nat
  | .cmd       => 0x000
  | .status    => 0x001
  | .ctrl      => 0x002
  | .argv      => 0x003
  | .alen      => 0x004
  | .isScript  => 0x005
  | .isWitness => 0x006
  | .wver      => 0x007
  | .wop       => 0x008
  | .d5len     => 0x009
  | .plen      => 0x00A
  | .slen      => 0x00B
  | .chkst     => 0x00C
  | .chkres k  => 0x010 + k.val
  | .cell b i  => b.firstOffset + i

/-- The offset of a well-formed location (R62); of an ill-formed one, of no meaning (log entry 15). -/
def Loc.offset (l : Loc) : Offset := BitVec.ofNat 9 l.offsetNat

/-- The location at an offset; none where the map says reserved (R62, R68). -/
def locate (c : Build) (o : Offset) : Option Loc :=
  match o.toNat with
  | 0x000 => some .cmd
  | 0x001 => some .status
  | 0x002 => some .ctrl
  | 0x003 => some .argv
  | 0x004 => some .alen
  | 0x005 => some .isScript
  | 0x006 => some .isWitness
  | 0x007 => some .wver
  | 0x008 => some .wop
  | 0x009 => some .d5len
  | 0x00A => some .plen
  | 0x00B => some .slen
  | 0x00C => some .chkst
  | 0x010 => some (.chkres 0)
  | 0x011 => some (.chkres 1)
  | 0x012 => some (.chkres 2)
  | 0x013 => some (.chkres 3)
  | n     => cellAtOffset c n

/-- The offset an assembly operand stands for (R86). -/
def Place.offset : Place → Offset
  | .loc l => l.offset
  | .num o => o

/-! ## Host operations -/

/-- The triple (we, off, data) of a host operation; a read has no data (R86). -/
def Access.triple : Access → Bool × Offset × Option Byte
  | .read off       => (false, off, none)
  | .write off data => (true, off, some data)

/-- The host operation of a triple; a triple that is neither a read without data nor a write with data is none. -/
def Access.ofTriple : Bool × Offset × Option Byte → Option Access
  | (false, off, none)     => some (.read off)
  | (true, off, some data) => some (.write off data)
  | _                      => none

end Sys2Proof
end

