-- ==== Sys2Proof/Machine/State.lean ====
section
/-! DEFINITION. The state of the block (spec/10_state.md), its reset value (R49), and the reasons a step can stop. -/

namespace Sys2Proof.Machine

/-- The cells of the five buffers, each at an address of its own (`Buffer.base`), in one canonical form: addresses
strictly rising, no entry equal to what an unlisted cell reads as (log entry 5). -/
abbrev Memory := List Host.Cell

/-- The outcomes of a command, in the order of their codes (spec/60_exceptions.md R190). -/
inductive Err where
  | ok
  | missingArg
  | invalidAddress
  | illegalCmd
  deriving DecidableEq, Repr

/-- The state. The registers are those of R22 to R36, as wide as the spec makes them; the five buffers of R37 to R41
are cells of `mem`. `build`, `bus` and `returned` are the model's own (log entries 7, 1 and 2). -/
structure State where
  /-- The configuration arguments AMAX and HAS_STRICT (spec/00_scope.md R5, R7): part of what the step is given, never
  written by it (log entry 7). -/
  build : Build
  /-- CMD (R22). -/
  cmd : Byte
  /-- STATUS (R23): ERR 1:0, DONE 2. -/
  status : Byte
  /-- CTRL (R26): STRICT 0. -/
  ctrl : Byte
  /-- ARGV (R24): A 0, S 1, W 2. -/
  argv : Byte
  /-- CHKST (R27): FRAME_OK 0, CHARSET_OK 1, SUM_OK 2. -/
  chkst : Byte
  /-- CHKRES (R28). -/
  chkres : Residue
  /-- ALEN (R29). -/
  alen : Byte
  /-- ISSCRIPT (R30). -/
  isScript : Byte
  /-- ISWITNESS (R31). -/
  isWitness : Byte
  /-- WVER (R32). -/
  wver : Byte
  /-- WOP (R33). -/
  wop : Byte
  /-- D5LEN (R34). -/
  d5len : Byte
  /-- PLEN (R35). -/
  plen : Byte
  /-- SLEN (R36). -/
  slen : Byte
  /-- ABUF, P58, D5, PROG, SCRIPT (R37 to R41). -/
  mem : Memory
  /-- Inputs that have not yet reached the block, oldest first: the total order of R70 (log entry 1). -/
  bus : List Input
  /-- Bytes the block has returned to host reads, oldest first (R64, R70 (c), log entry 2). -/
  returned : List Byte
  deriving DecidableEq, Repr

/-- There is no reason for the machine to stop: "There is no stuck state, no hang and no refusal inside the block"
(spec/00_scope.md R13, log entry 11). The block's errors are next states (R194). -/
inductive Fault where
  deriving DecidableEq, Repr

/-- Why a step is turned away. -/
inductive Refusal where
  /-- Raised by `exec` for a command that has no meaning yet; safe. No arm of `exec` raises it. -/
  | notModelled (mnemonic : String)
  deriving DecidableEq, Repr

/-- The state right after reset: every register and every buffer cell holds 0 (R49, R210); no input is pending and
nothing has been returned (log entries 1 and 2); the build is the one the spec describes (log entry 7). -/
def State.reset : State where
  build := Build.spec
  cmd := 0
  status := 0
  ctrl := 0
  argv := 0
  chkst := 0
  chkres := 0
  alen := 0
  isScript := 0
  isWitness := 0
  wver := 0
  wop := 0
  d5len := 0
  plen := 0
  slen := 0
  mem := []
  bus := []
  returned := []

end Sys2Proof.Machine
end

