-- ==== Sys2Proof/Machine/Flags.lean ====
section
/-! DEFINITION. Every flag of the block and how it is computed (spec/10_state.md R23 to R27, R25: there are no
others). -/

namespace Sys2Proof.Machine

/-- The code of an outcome (spec/60_exceptions.md R190). -/
def Err.code : Err → BitVec 2
  | .ok             => 0
  | .missingArg     => 1
  | .invalidAddress => 2
  | .illegalCmd     => 3

/-- The STATUS byte: bits 7:3 read as 0, DONE at bit 2, ERR at bits 1:0 (R23). -/
def statusWord (done : Bool) (e : Err) : Byte := 0#5 ++ BitVec.ofBool done ++ e.code

/-- STATUS.ERR (R23). -/
def statusErr (w : Byte) : BitVec 2 := w.extractLsb' 0 2

/-- STATUS.DONE (R23). -/
def statusDone (w : Byte) : Bool := w.getLsbD 2

/-- ARGV.A, set by a legal write to ALEN (R24). -/
def argvA : Byte := 0b001

/-- ARGV.S, set by a write to ISSCRIPT (R24). -/
def argvS : Byte := 0b010

/-- ARGV.W, set by a write to ISWITNESS (R24). -/
def argvW : Byte := 0b100

/-- ARGV[2:0] = 0b111: all three arguments were supplied (spec/44_dispatch.md R170, R171). -/
def argumentsSupplied (argv : Byte) : Bool := argv.extractLsb' 0 3 = 0b111

/-- CTRL.STRICT (R26). -/
def strictBit (ctrl : Byte) : Bool := ctrl.getLsbD 0

/-- What a host write of a byte leaves in CTRL: bit 0 alone (R26); nothing in a block without the strict-mode unit,
where STRICT is hardwired to 0 (spec/00_scope.md R7). -/
def ctrlNarrow (hasStrict : Bool) (v : Byte) : Byte := if hasStrict then v &&& 1 else 0

/-- What a host write of a byte leaves in ISSCRIPT or ISWITNESS: bit 0 alone (R30, R31). -/
def flagNarrow (v : Byte) : Byte := v &&& 1

/-- The value of ISSCRIPT or ISWITNESS as a boolean: bit 0 (R30, R31). -/
def flagBit (v : Byte) : Bool := v.getLsbD 0

/-- The CHKST byte: bits 7:3 read as 0, SUM_OK, CHARSET_OK, FRAME_OK at bits 2, 1, 0 (R27). -/
def chkstWord (frame charset sum : Bool) : Byte :=
  0#5 ++ BitVec.ofBool sum ++ BitVec.ofBool charset ++ BitVec.ofBool frame

/-- CHKST.FRAME_OK (R27). -/
def chkstFrame (w : Byte) : Bool := w.getLsbD 0

/-- CHKST.CHARSET_OK (R27). -/
def chkstCharset (w : Byte) : Bool := w.getLsbD 1

/-- CHKST.SUM_OK (R27). -/
def chkstSum (w : Byte) : Bool := w.getLsbD 2

end Sys2Proof.Machine
end

