-- ==== Sys2Proof/Machine/Memory.lean ====
section
/-! DEFINITION. The memory behind the buffers: reading a cell, storing a run of cells, and the canonical form. -/

namespace Sys2Proof.Machine

/-- What a cell that is not listed reads as: every buffer cell is 0 after reset (spec/10_state.md R49). -/
def Memory.unlisted : Byte := 0

/-- The byte at an address. -/
def Memory.read : Memory → Nat → Byte
  | [], _ => Memory.unlisted
  | (k, v) :: rest, a => if k = a then v else Memory.read rest a

/-- The entries for a run of bytes from an address on. -/
def cellsFrom : Nat → List Byte → Memory
  | _, [] => []
  | a, v :: vs => if v = Memory.unlisted then cellsFrom (a + 1) vs else (a, v) :: cellsFrom (a + 1) vs

/-- The memory with a run of bytes stored from an address on. -/
def Memory.store (m : Memory) (a : Nat) (vs : List Byte) : Memory :=
  m.filter (·.1 < a) ++ cellsFrom a vs ++ m.filter (a + vs.length ≤ ·.1)

/-- The canonical form: addresses strictly rising, no entry equal to what an unlisted cell reads as. -/
abbrev Memory.wf (m : Memory) : Prop :=
  m.Pairwise (fun x y => x.1 < y.1) ∧ ∀ c ∈ m, c.2 ≠ Memory.unlisted

end Sys2Proof.Machine
end

