-- ==== Sys2Proof/Machine/Operands.lean ====
section
/-! DEFINITION. The operands of the commands: each takes them from fixed registers (spec/30_encoding.md R80, R82;
spec/10_state.md R42). -/

namespace Sys2Proof.Machine

/-- Cell i of a buffer (spec/00_scope.md R9). -/
def readCell (s : State) (b : Buffer) (i : Nat) : Byte := s.mem.read (b.base + i)

/-- The cells BUF[lo..hi) (R9). No cell outside the buffer's capacity is read (log entry 6). -/
def cellRange (s : State) (b : Buffer) (lo hi : Nat) : List Byte :=
  (List.range' lo (min hi (b.capacity s.build) - lo)).map (readCell s b)

/-- The input string s = ABUF[0..ALEN) (R10). -/
def inputString (s : State) : List Byte := cellRange s .abuf 0 s.alen.toNat

/-- CTRL.STRICT as the decoders read it (R26). -/
def strictOn (s : State) : Bool := strictBit s.ctrl

/-- The hash P58[1..21) (R38). -/
def hash20 (s : State) : List Byte := cellRange s .p58 1 21

/-- The regrouper's input D5[0..D5LEN), 5-bit cells (R39, spec/42_regroup.md R150). -/
def d5Values (s : State) : List Quint := (cellRange s .d5 0 s.d5len.toNat).map (·.setWidth 5)

/-- The witness program PROG[0..PLEN) (R40). -/
def programBytes (s : State) : List Byte := cellRange s .prog 0 s.plen.toNat

end Sys2Proof.Machine
end

