-- ==== Sys2Proof/Machine/Ops.lean ====
section
/-! DEFINITION. The named operations on the state: writing a result register with its buffer, ending a command, raising
an error, resetting the block. -/

namespace Sys2Proof.Machine

/-! ## Buffers and result registers -/

/-- A list cut or filled with zeros to a length: the zero fill of spec/10_state.md R43. -/
def zeroFill (n : Nat) (vs : List Byte) : List Byte := (vs ++ List.replicate n 0).take n

/-- The whole buffer written: the given cells from cell 0 on, zero above them (R43). -/
def fillBuffer (b : Buffer) (vs : List Byte) (s : State) : State :=
  { s with mem := s.mem.store b.base (zeroFill (b.capacity s.build) vs) }

/-- One cell of a buffer written; a D5 cell keeps bits 4:0 (R39). -/
def writeCell (b : Buffer) (i : Nat) (v : Byte) (s : State) : State :=
  { s with mem := s.mem.store (b.base + i) [if b = .d5 then (v.setWidth 5).setWidth 8 else v] }

/-- SCRIPT and SLEN written (R36, R41, R43). -/
def setScript (vs : List Byte) (s : State) : State :=
  { fillBuffer .script vs s with slen := BitVec.ofNat 8 vs.length }

/-- P58 written (R38). -/
def setPayload (vs : List Byte) (s : State) : State := fillBuffer .p58 vs s

/-- PROG and PLEN written (R35, R40, R43). -/
def setProgram (vs : List Byte) (s : State) : State :=
  { fillBuffer .prog vs s with plen := BitVec.ofNat 8 vs.length }

/-- D5 and D5LEN written (R34, R39, R43). -/
def setD5 (vs : List Quint) (s : State) : State :=
  { fillBuffer .d5 (vs.map (·.setWidth 8)) s with d5len := BitVec.ofNat 8 vs.length }

/-- The result registers of the bech32 decoder written: WVER, WOP, D5LEN, D5, PLEN, PROG
(spec/41_bech32.md R120). -/
def setWitness (wver wop : Byte) (d5 : List Quint) (prog : List Byte) (s : State) : State :=
  setProgram prog (setD5 d5 { s with wver := wver, wop := wop })

/-- CHKST and CHKRES written together (R27, R28). -/
def setCheck (chkst : Byte) (chkres : Residue) (s : State) : State := { s with chkst := chkst, chkres := chkres }

/-- ARGV cleared (spec/44_dispatch.md R175). -/
def clearArgv (s : State) : State := { s with argv := 0 }

/-! ## The end of a command -/

/-- STATUS written with DONE = 1 and the command's outcome (spec/30_encoding.md R81 (5), spec/10_state.md R23). -/
def setOutcome (e : Err) (s : State) : State := { s with status := statusWord true e }

/-- The command ran to its end: ERR = OK. -/
def complete (s : State) : Host.Outcome State Fault Refusal := .next (setOutcome .ok s)

/-- Taking an error, the block's only exception (spec/60_exceptions.md R194): the writes made before it stand, then
STATUS has DONE = 1 and the error's code. Nothing is saved, no mode changes, control goes nowhere, so there is nothing
to return from (R198): the next command overwrites ERR. -/
def raise (e : Err) (s : State) : Host.Outcome State Fault Refusal := .next (setOutcome e s)

/-- Every register and every buffer cell at its reset value (R49): what reset (R210) and CLR (R180) do. What stands
outside the block, the inputs that have not reached it and the bytes already returned, is as before (log entry 9), and
so is the build. -/
def resetBlock (s : State) : State := { State.reset with build := s.build, bus := s.bus, returned := s.returned }

end Sys2Proof.Machine
end

