-- ==== Sys2Proof/Machine/Tables.lean ====
section
/-! DEFINITION. The read-only tables and constants (spec/10_state.md R45 to R48), given by the spec from general
knowledge (log entry 8). The result INV of a lookup is `none`: a symbol, not a number (R45). -/

namespace Sys2Proof.Machine

/-- The byte codes of characters. -/
def charCodes (cs : List Char) : List Byte := cs.map fun c => BitVec.ofNat 8 c.toNat

/-- The place of a byte in a list. -/
def placeOf (c : Byte) : List Byte → Option Nat
  | [] => none
  | x :: xs => if x = c then some 0 else (placeOf c xs).map (· + 1)

/-- The base58 alphabet, index 0 to 57 (R46). -/
def base58Alphabet : List Byte :=
  charCodes ['1', '2', '3', '4', '5', '6', '7', '8', '9'] ++
  charCodes ['A', 'B', 'C', 'D', 'E', 'F', 'G', 'H', 'J', 'K', 'L', 'M', 'N', 'P', 'Q', 'R', 'S', 'T', 'U', 'V', 'W',
    'X', 'Y', 'Z'] ++
  charCodes ['a', 'b', 'c', 'd', 'e', 'f', 'g', 'h', 'i', 'j', 'k', 'm', 'n', 'o', 'p', 'q', 'r', 's', 't', 'u', 'v',
    'w', 'x', 'y', 'z']

/-- B58REV: the index of the character in the base58 alphabet, or INV (R46). -/
def b58val (c : Byte) : Option Carry := (placeOf c base58Alphabet).map (BitVec.ofNat 6 ·)

/-- The bech32 charset, index 0 to 31, letters in lower case (R47). -/
def bech32Lower : List Byte :=
  charCodes ['q', 'p', 'z', 'r', 'y', '9', 'x', '8', 'g', 'f', '2', 't', 'v', 'd', 'w', '0'] ++
  charCodes ['s', '3', 'j', 'n', '5', '4', 'k', 'h', 'c', 'e', '6', 'm', 'u', 'a', '7', 'l']

/-- The same charset with its letters in upper case (R47). -/
def bech32Upper : List Byte :=
  charCodes ['Q', 'P', 'Z', 'R', 'Y', '9', 'X', '8', 'G', 'F', '2', 'T', 'V', 'D', 'W', '0'] ++
  charCodes ['S', '3', 'J', 'N', '5', '4', 'K', 'H', 'C', 'E', '6', 'M', 'U', 'A', '7', 'L']

/-- B32REV: the 5-bit value of the character, in either case, or INV (R47). -/
def b32val (c : Byte) : Option Quint :=
  ((placeOf c bech32Lower).or (placeOf c bech32Upper)).map (BitVec.ofNat 5 ·)

/-- GEN, the constants of the checksum polynomial (R48); there are five. -/
def gen : Fin 5 → Residue
  | 0 => 0x3b6a57b2
  | 1 => 0x26508e6d
  | 2 => 0x1ea119fa
  | 3 => 0x3d4233dd
  | 4 => 0x2a1462b3

/-- The checksum constant (R48, R135). -/
def checksumConstant : Residue := 1

/-- A lookup applied to every character: INV anywhere gives none. -/
def lookupAll {α : Type} (table : Byte → Option α) : List Byte → Option (List α)
  | [] => some []
  | c :: cs =>
    match table c, lookupAll table cs with
    | some v, some vs => some (v :: vs)
    | _, _ => none

end Sys2Proof.Machine
end

