-- ==== Sys2Proof/Machine/Base58.lean ====
section
/-! DEFINITION. The unit B58: the base58 decoder with limb arithmetic, command B58DEC (spec/40_base58.md). -/

namespace Sys2Proof.Machine

/-- The accumulator L[0..6], L[0] most significant, and the strict-mode overflow indicator OVF (R103, R107): scratch,
local to a command (spec/10_state.md R44). -/
structure Accumulator where
  l0 : Limb
  l1 : Limb
  l2 : Limb
  l3 : Limb
  l4 : Limb
  l5 : Limb
  l6 : Limb
  ovf : Bool
  deriving DecidableEq, Repr

/-- All limbs and OVF start at 0 (R103, R44). -/
def startAccumulator : Accumulator := ⟨0, 0, 0, 0, 0, 0, 0, false⟩

/-- One multiply-add of a limb: t = L[j] × 58 + C on 38 bits; t[31:0] stays in the limb, t[37:32] is the carry to the
next more significant limb (R103, R108). -/
def limbMulAdd (l : Limb) (c : Carry) : Limb × Carry :=
  let t : BitVec 38 := l.setWidth 38 * 58 + c.setWidth 38
  (t.extractLsb' 0 32, t.extractLsb' 32 6)

/-- The limb step for one digit, from the least significant limb upward; a carry that leaves L[0] is dropped and noted
in OVF (R103, R107). -/
def limbStep (a : Accumulator) (d : Carry) : Accumulator :=
  let (m6, c6) := limbMulAdd a.l6 d
  let (m5, c5) := limbMulAdd a.l5 c6
  let (m4, c4) := limbMulAdd a.l4 c5
  let (m3, c3) := limbMulAdd a.l3 c4
  let (m2, c2) := limbMulAdd a.l2 c3
  let (m1, c1) := limbMulAdd a.l1 c2
  let (m0, c0) := limbMulAdd a.l0 c1
  ⟨m0, m1, m2, m3, m4, m5, m6, a.ovf || c0 ≠ 0⟩

/-- The accumulator after all digits, in string order (R103). -/
def accumulate (ds : List Carry) : Accumulator := ds.foldl limbStep startAccumulator

/-- The bytes of a limb, most significant first (R105, spec/20_memory.md R66). -/
def limbBytes (l : Limb) : List Byte :=
  [l.extractLsb' 24 8, l.extractLsb' 16 8, l.extractLsb' 8 8, l.extractLsb' 0 8]

/-- The payload: the low byte of L[0], then L[1] to L[6], each big-endian; 25 bytes (R105, spec/90_conflicts.md C1). -/
def payloadBytes (a : Accumulator) : List Byte :=
  a.l0.extractLsb' 0 8 ::
    (limbBytes a.l1 ++ limbBytes a.l2 ++ limbBytes a.l3 ++ limbBytes a.l4 ++ limbBytes a.l5 ++ limbBytes a.l6)

/-- The datapath's test for a value of 2^200 or more: OVF, or bits 31:8 of L[0] not all zero (R107). -/
def tooWide (a : Accumulator) : Bool := a.ovf || a.l0.extractLsb' 8 24 ≠ 0

/-- The digits of a string, or none when some character is not a base58 character: `valid(s)` of R101 (R102). -/
def b58digits (str : List Byte) : Option (List Carry) := lookupAll b58val str

/-- The body of the decoder (R101): the payload, or none for Invalid. -/
def b58body (str : List Byte) (strict : Bool) : Option (List Byte) :=
  match b58digits str with
  | some ds => if strict && tooWide (accumulate ds) then none else some (payloadBytes (accumulate ds))
  | none    => if strict then none else some (Config.garb58 str).toList

/-- The decoder run on the state, shared by B58DEC and the A2S legacy paths (R100, spec/44_dispatch.md R173): P58
written, all zero when the string is Invalid; and whether it was accepted. -/
def runBase58 (s : State) : State × Bool :=
  match b58body (inputString s) (strictOn s) with
  | some p => (setPayload p s, true)
  | none   => (setPayload [] s, false)

/-- B58DEC (R100). -/
def execB58dec (s : State) : Host.Outcome State Fault Refusal :=
  match runBase58 s with
  | (t, true)  => complete t
  | (t, false) => raise .invalidAddress t

end Sys2Proof.Machine
end

