-- ==== Sys2Proof/Machine/Regroup.lean ====
section
/-! DEFINITION. The unit RG: the 5-bit to 8-bit regrouper, command REGRP (spec/42_regroup.md). -/

namespace Sys2Proof.Machine

/-- The datapath of R152 from a bit buffer RACC (12 bits) and a bit count RBITS: each value is shifted in; a byte is
emitted when 8 bits or more are buffered. The inner loop of R152 runs at most once for each value (R152), so it is
written as one test (log entry 13). What is left at the end is dropped. -/
def regroupFrom (racc : BitVec 12) (rbits : Nat) : List Quint → List Byte
  | [] => []
  | v :: vs =>
    let shifted : BitVec 12 := (racc <<< 5) ||| v.setWidth 12
    if 8 ≤ rbits + 5 then
      (shifted >>> (rbits + 5 - 8)).setWidth 8 :: regroupFrom shifted (rbits + 5 - 8) vs
    else
      regroupFrom shifted (rbits + 5) vs

/-- `regroup`: RACC and RBITS start at 0 (R152). -/
def regroup (vs : List Quint) : List Byte := regroupFrom 0 0 vs

/-- REGRP (R150). -/
def execRegrp (s : State) : Host.Outcome State Fault Refusal := complete (setProgram (regroup (d5Values s)) s)

end Sys2Proof.Machine
end

