-- ==== Sys2Proof/Machine/Bech32.lean ====
section
/-! DEFINITION. The unit B32: the bech32 decoder and the checksum validator, commands B32DEC and CHK32
(spec/41_bech32.md). -/

namespace Sys2Proof.Machine

/-! ## Framing -/

/-- sep(s): the largest index of a `'1'` (0x31), if any (R122). -/
def separator : List Byte → Option Nat
  | [] => none
  | c :: cs =>
    match separator cs with
    | some i => some (i + 1)
    | none   => if c = 0x31 then some 0 else none

/-- The separator of a framed string: one followed by at least 7 characters, n − sep − 1 ≥ 7 (R122). -/
def framing (str : List Byte) : Option Nat :=
  match separator str with
  | some sep => if sep + 8 ≤ str.length then some sep else none
  | none     => none

/-- framed(s) (R122). -/
def framed (str : List Byte) : Bool := (framing str).isSome

/-- dlen: the number of used data characters, those at indices sep+1 to n−7 (R122). -/
def dataLength (str : List Byte) (sep : Nat) : Nat := str.length - sep - 7

/-- The data part s[sep+1..n), checksum included (R122). -/
def dataPart (str : List Byte) (sep : Nat) : List Byte := str.drop (sep + 1)

/-- The used data characters (R122, R123). -/
def usedData (str : List Byte) (sep : Nat) : List Byte := (dataPart str sep).take (dataLength str sep)

/-! ## The decoder -/

/-- What the decoder's body returns (R121): d5len and plen are the lengths of the two lists. -/
structure Decoded where
  wver : Byte
  wop  : Byte
  d5   : List Quint
  prog : List Byte
  deriving DecidableEq, Repr

/-- The witness version-opcode: 0 as it is, every other value + 0x50 (R125, R129 (a)). -/
def versionOpcode (v : Quint) : Byte := if v = 0 then 0x00 else v.setWidth 8 + 0x50

/-- A string that is not framed: two unknown bytes, no values, no program (R127). -/
def frameFail (str : List Byte) : Decoded :=
  { wver := (Config.garbV str).wver, wop := (Config.garbV str).wop, d5 := [], prog := [] }

/-- A framed string with an invalid used data character: unknown values at the lengths the framing gives (R128). -/
def garbageDecoded (c : Build) (str : List Byte) (dlen : Nat) : Decoded :=
  let g := Config.garb32 c str
  { wver := g.wver, wop := g.wop, d5 := g.d5.toList.take (dlen - 1), prog := g.prog.toList.take (5 * (dlen - 1) / 8) }

/-- The values of the used data characters decoded: the first is the version, the rest are regrouped
(R124 to R126). -/
def decodeValues (us : List Quint) : Decoded :=
  { wver := (us.headD 0).setWidth 8, wop := versionOpcode (us.headD 0), d5 := us.tail, prog := regroup us.tail }

/-- The body of the decoder (R121). -/
def b32body (c : Build) (str : List Byte) : Decoded :=
  match framing str with
  | none     => frameFail str
  | some sep =>
    match lookupAll b32val (usedData str sep) with
    | none    => garbageDecoded c str (dataLength str sep)
    | some us => decodeValues us

/-! ## The checksum validator -/

/-- What `validate(s)` returns (R131 to R135). -/
structure Check where
  frameOk   : Bool
  charsetOk : Bool
  sumOk     : Bool
  residue   : Residue
  deriving DecidableEq, Repr

/-- A byte of the human-readable part, folded to lower case for the checksum only (R133). -/
def foldCase (c : Byte) : Byte := if 0x41 ≤ c ∧ c ≤ 0x5A then c ||| 0x20 else c

/-- The value sequence: the high bits of the folded human-readable part, a zero, its low bits, the data part (R133). -/
def checkSequence (hrp : List Byte) (ws : List Quint) : List Quint :=
  let h := hrp.map foldCase
  h.map (fun c => c.extractLsb' 5 3 |>.setWidth 5) ++ [0] ++ h.map (fun c => c.extractLsb' 0 5) ++ ws

/-- One step of the polynomial (R134). -/
def polyStep (p : Residue) (v : Quint) : Residue :=
  let b := p >>> 25
  let q := ((p &&& 0x1ffffff) <<< 5) ^^^ v.setWidth 30
  (List.finRange 5).foldl (fun r i => if b.getLsbD i.val then r ^^^ gen i else r) q

/-- The residue of a value sequence; POLY starts at 1 (R134). -/
def polymod (vs : List Quint) : Residue := vs.foldl polyStep 1

/-- `validate(s)`: frame, then charset, then sum (R131 to R135). -/
def validate (str : List Byte) : Check :=
  match framing str with
  | none => ⟨false, false, false, 0⟩
  | some sep =>
    if sep = 0 then ⟨false, false, false, 0⟩
    else
      match lookupAll b32val (dataPart str sep) with
      | none    => ⟨true, false, false, 0⟩
      | some ws =>
        let r := polymod (checkSequence (str.take sep) ws)
        ⟨true, true, r = checksumConstant, r⟩

/-- The validator's result written to CHKST and CHKRES (spec/10_state.md R27, R28). -/
def writeCheck (c : Check) (s : State) : State :=
  setCheck (chkstWord c.frameOk c.charsetOk c.sumOk) c.residue s

/-! ## The commands -/

/-- A decoded value written to WVER, WOP, D5LEN, D5, PLEN, PROG (R120). -/
def writeDecoded (r : Decoded) (s : State) : State := setWitness r.wver r.wop r.d5 r.prog s

/-- The decoder run on the state, shared by B32DEC and the A2S witness path (R120, R136, spec/44_dispatch.md R174):
in strict mode the validator runs first and a string it does not pass leaves the result registers zero; and whether the
string was accepted. -/
def runBech32 (s : State) : State × Bool :=
  let str := inputString s
  if strictOn s then
    let checked := writeCheck (validate str) s
    if (validate str).sumOk then (writeDecoded (b32body s.build str) checked, true)
    else (setWitness 0 0 [] [] checked, false)
  else
    (writeDecoded (b32body s.build str) s, true)

/-- B32DEC (R120). -/
def execB32dec (s : State) : Host.Outcome State Fault Refusal :=
  match runBech32 s with
  | (t, true)  => complete t
  | (t, false) => raise .invalidAddress t

/-- CHK32 (R130): a failed validation is no error. -/
def execChk32 (s : State) : Host.Outcome State Fault Refusal := complete (writeCheck (validate (inputString s)) s)

end Sys2Proof.Machine
end

