-- ==== Sys2Proof/Machine/Script.lean ====
section
/-! DEFINITION. The unit SB: the script-template assembler, commands MKPKH, MKSH, MKWP (spec/43_script.md). -/

namespace Sys2Proof.Machine

/-- `76 a9 14 <hash20> 88 ac` (R160). -/
def pubkeyHashScript (hash : List Byte) : List Byte := [0x76, 0xa9, 0x14] ++ hash ++ [0x88, 0xac]

/-- `a9 14 <hash20> 87` (R161). -/
def scriptHashScript (hash : List Byte) : List Byte := [0xa9, 0x14] ++ hash ++ [0x87]

/-- `<version-opcode> <push-length-byte> <program bytes>` (R162, R163; where PMAX is above 75, log entry 16). -/
def witnessScript (wop plen : Byte) (program : List Byte) : List Byte := [wop, plen] ++ program

/-- The body of MKPKH (R160). -/
def assemblePubkeyHash (s : State) : State := setScript (pubkeyHashScript (hash20 s)) s

/-- The body of MKSH (R161). -/
def assembleScriptHash (s : State) : State := setScript (scriptHashScript (hash20 s)) s

/-- The body of MKWP (R162). -/
def assembleWitness (s : State) : State := setScript (witnessScript s.wop s.plen (programBytes s)) s

/-- MKPKH (R160). -/
def execMkpkh (s : State) : Host.Outcome State Fault Refusal := complete (assemblePubkeyHash s)

/-- MKSH (R161). -/
def execMksh (s : State) : Host.Outcome State Fault Refusal := complete (assembleScriptHash s)

/-- MKWP (R162). -/
def execMkwp (s : State) : Host.Outcome State Fault Refusal := complete (assembleWitness s)

end Sys2Proof.Machine
end

