-- ==== Sys2Proof/Machine/Top.lean ====
section
/-! DEFINITION. The unit TOP: the entry point with its argument check and dispatch, command A2S, and the soft reset,
command CLR (spec/44_dispatch.md). -/

namespace Sys2Proof.Machine

/-- A call that ends in an error: SCRIPT zero, SLEN = 0, ARGV = 0, then the error (R171, R173, R174). -/
def failCall (e : Err) (s : State) : Host.Outcome State Fault Refusal := raise e (clearArgv (setScript [] s))

/-- A call that ends well: ARGV = 0 (R175). -/
def finishCall (s : State) : Host.Outcome State Fault Refusal := complete (clearArgv s)

/-- The legacy paths: decode, then the template of the given kind (R173). -/
def legacyPath (assemble : State → State) (s : State) : Host.Outcome State Fault Refusal :=
  match runBase58 s with
  | (t, true)  => finishCall (assemble t)
  | (t, false) => failCall .invalidAddress t

/-- The witness path (R174). -/
def witnessPath (s : State) : Host.Outcome State Fault Refusal :=
  match runBech32 s with
  | (t, true)  => finishCall (assembleWitness t)
  | (t, false) => failCall .invalidAddress t

/-- A2S (R170): the argument check (R171), then the dispatch on the two flags alone (R172). -/
def execA2s (s : State) : Host.Outcome State Fault Refusal :=
  if argumentsSupplied s.argv then
    if flagBit s.isWitness then witnessPath s
    else if flagBit s.isScript then legacyPath assembleScriptHash s
    else legacyPath assemblePubkeyHash s
  else failCall .missingArg s

/-- CLR (R180): the state after it is the state after reset, CMD and STATUS included. -/
def execClr (s : State) : Host.Outcome State Fault Refusal := .next (resetBlock s)

end Sys2Proof.Machine
end

