-- ==== Sys2Proof/Machine/Dispatch.lean ====
section
/-! DEFINITION. What each command does: one arm per constructor of Instr, from the point where CMD holds the byte
(spec/30_encoding.md R81 (4) and (5)). -/

namespace Sys2Proof.Machine

def exec (i : Instr) (s : State) : Host.Outcome State Fault Refusal :=
  match i with
  | .a2s => Sys2Proof.Machine.execA2s s
  | .b58dec => Sys2Proof.Machine.execB58dec s
  | .b32dec => Sys2Proof.Machine.execB32dec s
  | .regrp => Sys2Proof.Machine.execRegrp s
  | .mkpkh => Sys2Proof.Machine.execMkpkh s
  | .mksh => Sys2Proof.Machine.execMksh s
  | .mkwp => Sys2Proof.Machine.execMkwp s
  | .chk32 => Sys2Proof.Machine.execChk32 s
  | .clr => Sys2Proof.Machine.execClr s

end Sys2Proof.Machine
end

