-- ==== Sys2Proof/Machine/Port.lean ====
section
/-! DEFINITION. The host port: what a host read, a host write and the reset input do (spec/20_memory.md R60 to R73,
spec/30_encoding.md R81, spec/70_reset_and_hazards.md R210). -/

namespace Sys2Proof.Machine

/-- The byte a host read of a location returns (R62, spec/10_state.md R22 to R41). A D5 cell reads as 0b000 ‖ cell
(R39); CHKRES reads least significant byte first, its top byte as 0b00 ‖ CHKRES[29:24] (R28). -/
def readLoc (s : State) : Loc → Byte
  | .cmd       => s.cmd
  | .status    => s.status
  | .ctrl      => s.ctrl
  | .argv      => s.argv
  | .alen      => s.alen
  | .isScript  => s.isScript
  | .isWitness => s.isWitness
  | .wver      => s.wver
  | .wop       => s.wop
  | .d5len     => s.d5len
  | .plen      => s.plen
  | .slen      => s.slen
  | .chkst     => s.chkst
  | .chkres k  => (s.chkres >>> (8 * k.val)).setWidth 8
  | .cell b i  => if b = .d5 then ((readCell s b i).setWidth 5).setWidth 8 else readCell s b i

/-- MemRead: a reserved offset reads 0x00 (R68). -/
def hostRead (s : State) (off : Offset) : Byte :=
  match locate s.build off with
  | some l => readLoc s l
  | none   => 0x00

/-- What a host write of a byte stores at a location (R64): narrowed at CTRL, ISSCRIPT, ISWITNESS and D5; ignored at
ALEN, D5LEN and PLEN when over the capacity and at every read-only register; ARGV's bits set as R24 says. At CMD the
byte is stored (R22); that it is then executed is `hostWrite`'s part. -/
def writeLoc (l : Loc) (v : Byte) (s : State) : State :=
  match l with
  | .cmd       => { s with cmd := v }
  | .ctrl      => { s with ctrl := ctrlNarrow s.build.hasStrict v }
  | .alen      => if v.toNat ≤ s.build.AMAX then { s with alen := v, argv := s.argv ||| argvA } else s
  | .isScript  => { s with isScript := flagNarrow v, argv := s.argv ||| argvS }
  | .isWitness => { s with isWitness := flagNarrow v, argv := s.argv ||| argvW }
  | .wop       => { s with wop := v }
  | .d5len     => if v.toNat ≤ s.build.DMAX then { s with d5len := v } else s
  | .plen      => if v.toNat ≤ s.build.PMAX then { s with plen := v } else s
  | .cell .p58 i  => writeCell .p58 i v s
  | .cell .prog i => writeCell .prog i v s
  | .cell .abuf i => writeCell .abuf i v s
  | .cell .d5 i   => writeCell .d5 i v s
  | .status | .argv | .wver | .slen | .chkst | .chkres _ | .cell .script _ => s

/-- The command byte in CMD executed: decoded, then run; an illegal byte ends in ILLEGAL_CMD before any other register
is read (R81, spec/60_exceptions.md R193, R197). -/
def runCommand (v : Byte) (s : State) : Host.Outcome State Fault Refusal :=
  match decodeByteFor s.build.hasStrict v with
  | some i => exec i s
  | none   => raise .illegalCmd s

/-- MemWrite: at CMD the byte is stored and then executed (R81); a reserved offset ignores the write (R68). -/
def hostWrite (off : Offset) (v : Byte) (s : State) : Host.Outcome State Fault Refusal :=
  match locate s.build off with
  | some .cmd => runCommand v (writeLoc .cmd v s)
  | some l    => .next (writeLoc l v s)
  | none      => .next s

/-- The value a host read returned, handed to the host (R70 (c), log entry 2). -/
def returnByte (v : Byte) (s : State) : State := { s with returned := s.returned ++ [v] }

/-- One input takes its full effect (R70 (b)): a read changes nothing of the block (R64), a write does as `hostWrite`
says, reset puts every register and cell at its reset value (R210). -/
def accept (i : Input) (s : State) : Host.Outcome State Fault Refusal :=
  match i with
  | .access (.read off)    => .next (returnByte (hostRead s off) s)
  | .access (.write off v) => hostWrite off v s
  | .reset                 => .next (resetBlock s)

/-- The input that carries a command byte to the block: the write of it to CMD (R80, R87). -/
def commandInput (b : Byte) : Input := .access (.write Loc.cmd.offset b)

end Sys2Proof.Machine
end

