-- ==== Sys2Proof/Machine/Step.lean ====
section
/-! DEFINITION. One step of the block. There is no program counter and no fetch (spec/10_state.md R21,
spec/20_memory.md R73): the next operation is carried by the oldest input that has not yet reached the block. -/

namespace Sys2Proof.Machine

/-- The oldest input takes its full effect (R70). With no input the block is idle and holds its registers
(spec/00_scope.md R11, spec/60_exceptions.md R208). -/
def step (s : State) : Host.Outcome State Fault Refusal :=
  match s.bus with
  | []        => .next s
  | i :: rest => accept i { s with bus := rest }

/-- The state whose next input is the write to CMD of the command byte in a table word (R81, log entry 1). -/
def State.withFetchWord (s : State) (nbits w : Nat) : State :=
  { s with bus := commandInput (tableByte nbits w) :: s.bus }

end Sys2Proof.Machine
end

