-- ==== Sys2Proof/Machine/HostAsm.lean ====
section
/-! DEFINITION. The host-operation assembly: what each line stands for (spec/30_encoding.md R86 to R88). -/

namespace Sys2Proof.Machine

/-- Writes of bytes to consecutive cells in increasing order (R88). -/
def writeCells (b : Buffer) (k : Nat) : List Byte → List Access
  | [] => []
  | v :: vs => .write (Loc.cell b k).offset v :: writeCells b (k + 1) vs

/-- Reads of n consecutive cells in increasing order (R88). -/
def readCells (b : Buffer) (k : Nat) : Nat → List Access
  | 0 => []
  | n + 1 => .read (Loc.cell b k).offset :: readCells b (k + 1) n

/-- `LDA "text"`: the characters to ABUF, then ALEN, last (R88). -/
def loadAddress (text : List Byte) : List Access :=
  writeCells .abuf 0 text ++ [.write Loc.alen.offset (BitVec.ofNat 8 text.length)]

/-- `ARGS s, w` (R88). -/
def loadFlags (s w : Byte) : List Access := [.write Loc.isScript.offset s, .write Loc.isWitness.offset w]

/-- A command's mnemonic alone on a line: the write of its byte to CMD (R87). -/
def issue (i : Instr) : Access := .write Loc.cmd.offset (encodeByte i)

/-- The accesses of a line (R86 to R88). -/
def HostLine.expand : HostLine → List Access
  | .wr p b => [.write p.offset b]
  | .rd p => [.read p.offset]
  | .command i => [issue i]
  | .lda text => loadAddress text
  | .args s w => loadFlags s w
  | .call text s w => loadAddress text ++ loadFlags s w ++ [issue .a2s]
  | .ldb b k bytes => writeCells b k bytes
  | .strict b => [.write Loc.ctrl.offset b]
  | .expect p _ => [.read p.offset]
  | .expectCells b a bytes => readCells b a bytes.length

/-- What a line asserts of the bytes its reads return: one entry per read, none where nothing is asserted (R88). -/
def HostLine.asserted : HostLine → List (Option Byte)
  | .rd _ => [none]
  | .expect _ v => [some v]
  | .expectCells _ _ bytes => bytes.map some
  | .wr _ _ | .command _ | .lda _ | .args _ _ | .call _ _ _ | .ldb _ _ _ | .strict _ => []

/-- The inputs of a host program, in order (R70 (a)). -/
def programInputs (lines : List HostLine) : List Input := (lines.flatMap HostLine.expand).map .access

/-- Whether returned bytes meet the assertions of a host program (R88). -/
def assertionsMet : List (Option Byte) → List Byte → Bool
  | [], [] => true
  | none :: es, _ :: vs => assertionsMet es vs
  | some e :: es, v :: vs => e = v && assertionsMet es vs
  | _, _ => false

end Sys2Proof.Machine
end

