-- ==== Sys2Proof/Machine/Reference.lean ====
section
/-! DEFINITION. What the rules say a result is, apart from the datapath that computes it. The machine does not use
these; the statements about the machine do. -/

namespace Sys2Proof.Machine

/-- The value V of a digit string: `V_0 = 0`, `V_(k+1) = V_k × 58 + d_k`, an unbounded natural
(spec/40_base58.md R102). -/
def b58value (ds : List Carry) : Nat := ds.foldl (fun v d => v * 58 + d.toNat) 0

/-- The number ACC the seven limbs hold, L[0] most significant (R103). -/
def accumulatorValue (a : Accumulator) : Nat :=
  a.l0.toNat * 2 ^ 192 + a.l1.toNat * 2 ^ 160 + a.l2.toNat * 2 ^ 128 + a.l3.toNat * 2 ^ 96 + a.l4.toNat * 2 ^ 64 +
    a.l5.toNat * 2 ^ 32 + a.l6.toNat

/-- A number modulo 256^n as n bytes, the most significant first (spec/20_memory.md R66). -/
def bigEndian : Nat → Nat → List Byte
  | 0, _ => []
  | n + 1, v => BitVec.ofNat 8 (v / 256 ^ n) :: bigEndian n v

/-- The number a byte string stands for, its first byte the most significant (R66). -/
def bigEndianValue (bs : List Byte) : Nat := bs.foldl (fun v b => v * 256 + b.toNat) 0

/-- Bit j of the stream of 5-bit values, each most significant bit first (spec/42_regroup.md R151). -/
def streamBit (vs : List Quint) (j : Nat) : Bool := (vs.getD (j / 5) 0).getLsbD (4 - j % 5)

/-- The value sequence of a string with a separator (spec/41_bech32.md R133), element by element: for the i-th byte
h[i] of the human-readable part, folded to lower case, h[i] >> 5; one 0; h[i] & 31; then the value of every character
after the separator (R132). -/
def isValueSequence (str : List Byte) (sep : Nat) (vs : List Quint) : Prop :=
  vs.length = 2 * sep + 1 + (str.length - sep - 1) ∧
  (∀ i < sep, ∃ c h : Byte, str[i]? = some c ∧ h = (if 0x41 ≤ c ∧ c ≤ 0x5A then c ||| 0x20 else c) ∧
    (vs.getD i 0).toNat = h.toNat / 32 ∧ (vs.getD (sep + 1 + i) 0).toNat = h.toNat % 32) ∧
  vs.getD sep 0 = 0 ∧
  ∀ k < str.length - sep - 1, ∃ c, str[sep + 1 + k]? = some c ∧ b32val c = some (vs.getD (2 * sep + 1 + k) 0)

/-- The offsets the map of spec/20_memory.md R62 calls reserved. -/
abbrev reservedOffset (off : Offset) : Prop :=
  (0x00D ≤ off ∧ off ≤ 0x00F) ∨ (0x014 ≤ off ∧ off ≤ 0x01F) ∨ (0x039 ≤ off ∧ off ≤ 0x03F) ∨
  (0x08D ≤ off ∧ off ≤ 0x08F) ∨ (0x0DB ≤ off ∧ off ≤ 0x0FF) ∨ 0x1F8 ≤ off

/-- The buffers a command writes (spec/10_state.md R42). CLR writes them all. -/
def buffersWritten (i : Instr) (s : State) : List Buffer :=
  match i with
  | .b58dec => [.p58]
  | .b32dec => [.d5, .prog]
  | .chk32  => []
  | .regrp  => [.prog]
  | .mkpkh | .mksh | .mkwp => [.script]
  | .a2s    =>
    if argumentsSupplied s.argv then
      if flagBit s.isWitness then [.d5, .prog, .script] else [.p58, .script]
    else [.script]
  | .clr    => [.p58, .script, .prog, .abuf, .d5]

/-- The command takes the witness path: B32DEC, or an A2S with its three arguments and isWitness (R42,
spec/44_dispatch.md R172). -/
def decodesBech32 (i : Instr) (s : State) : Bool :=
  i = .b32dec || (i = .a2s && argumentsSupplied s.argv && flagBit s.isWitness)

/-- A buffer holds the given cells from cell 0 on and zero above them (R43). -/
def bufferIs (t : State) (b : Buffer) (vs : List Byte) : Prop := ∀ i < b.capacity t.build, readCell t b i = vs.getD i 0

/-- Every address outside the given buffers (of the first state's build) reads in one memory as in the other. -/
def sameExceptIn (bs : List Buffer) (s t : State) : Prop :=
  ∀ a, (∀ b ∈ bs, b.holds s.build a = false) → t.mem.read a = s.mem.read a

/-- An outcome with a function applied to its next state. -/
def mapNext (f : State → State) : Host.Outcome State Fault Refusal → Host.Outcome State Fault Refusal
  | .next t    => .next (f t)
  | .fault r   => .fault r
  | .refused r => .refused r

end Sys2Proof.Machine
end

