-- ==== Sys2Proof/Safety.lean ====
section
/-! DEFINITION. What holds of the block in every state it can be in: the invariant that every step keeps, and what a
safe step is. -/

namespace Sys2Proof.Machine

/-- The memory is in canonical form, lists cells of the five buffers only, and a D5 cell holds a 5-bit value
(spec/10_state.md R37 to R41, R39). -/
abbrev State.cellsLegal (s : State) : Prop :=
  Memory.wf s.mem ∧
  ∀ c ∈ s.mem, (bufferAt s.build c.1).isSome = true ∧ (Buffer.d5.holds s.build c.1 = true → c.2.toNat < 32)

/-- Every length register is at most its buffer's capacity (R29, R34, R35, R36). -/
abbrev State.lengthsLegal (s : State) : Prop :=
  s.alen.toNat ≤ s.build.AMAX ∧ s.d5len.toNat ≤ s.build.DMAX ∧ s.plen.toNat ≤ s.build.PMAX ∧
  s.slen.toNat ≤ s.build.SMAX

/-- The build is one the rules can be followed in (R5), and CTRL.STRICT is 0 where there is no strict-mode unit
(spec/00_scope.md R7). -/
abbrev State.buildLegal (s : State) : Prop := s.build.legal ∧ (s.build.hasStrict = false → s.ctrl = 0)

/-- The reserved bits read as 0 (R23, R24, R26, R27, R30, R31). -/
abbrev State.reservedZero (s : State) : Prop :=
  s.status.extractLsb' 3 5 = 0 ∧ s.ctrl.extractLsb' 1 7 = 0 ∧ s.argv.extractLsb' 3 5 = 0 ∧
  s.chkst.extractLsb' 3 5 = 0 ∧ s.isScript.extractLsb' 1 7 = 0 ∧ s.isWitness.extractLsb' 1 7 = 0

/-- The checksum status is nested, and CHKRES is 0 unless CHARSET_OK (R27, R28, spec/41_bech32.md R135). -/
abbrev State.checkNested (s : State) : Prop :=
  (chkstCharset s.chkst = true → chkstFrame s.chkst = true) ∧
  (chkstCharset s.chkst = false → s.chkres = 0) ∧
  (chkstSum s.chkst = true ↔ chkstCharset s.chkst = true ∧ s.chkres = checksumConstant)

/-- SCRIPT is zero at and above SLEN (R43); the host cannot write either. -/
abbrev State.scriptZeroFilled (s : State) : Prop :=
  ∀ i < s.build.SMAX, s.slen.toNat ≤ i → readCell s .script i = 0

/-- Before the first command since reset or CLR has ended, the registers that only commands write are as reset left
them; and MISSING_ARG comes with no output (R23, spec/60_exceptions.md R195). -/
abbrev State.outcomeConsistent (s : State) : Prop :=
  (statusDone s.status = false →
    s.cmd = 0 ∧ statusErr s.status = 0 ∧ s.wver = 0 ∧ s.slen = 0 ∧ s.chkst = 0 ∧ s.chkres = 0) ∧
  (statusErr s.status = Err.missingArg.code → s.slen = 0)

/-- The invariant of the block. -/
structure State.Inv (s : State) : Prop where
  build    : s.buildLegal
  cells    : s.cellsLegal
  lengths  : s.lengthsLegal
  reserved : s.reservedZero
  check    : s.checkNested
  script   : s.scriptZeroFilled
  outcome  : s.outcomeConsistent

/-- A safe step: the block goes on (spec/00_scope.md R13). -/
abbrev goesOn (o : Host.Outcome State Fault Refusal) : Prop := ∃ t, o = .next t

end Sys2Proof.Machine
end

