-- ==== Sys2Proof/WellFormed.lean ====
section
/-! DEFINITION. Which terms of the syntax the spec gives a meaning. -/

namespace Sys2Proof

/-- A command is well-formed unless it is CHK32 in a block without the strict-mode unit (spec/00_scope.md R7). -/
def Instr.wellFormedFor (hasStrict : Bool) : Instr → Bool
  | .chk32 => hasStrict
  | .a2s | .b58dec | .b32dec | .regrp | .mkpkh | .mksh | .mkwp | .clr => true

/-- Well-formed in the build the spec describes. -/
def Instr.wellFormed (i : Instr) : Bool := i.wellFormedFor Build.spec.hasStrict

/-- A buffer cell's index is inside the buffer's capacity (R9) and the host can name the cell (`Buffer.reach`, the
model's choice for AMAX above 128, log entry 15); every other location exists. -/
def Loc.wellFormed (c : Build) : Loc → Bool
  | .cell b i => i < b.reach c
  | .cmd | .status | .ctrl | .argv | .alen | .isScript | .isWitness | .wver | .wop | .d5len | .plen | .slen | .chkst
  | .chkres _ => true

/-- A number is any offset of the register space (R86). -/
def Place.wellFormed (c : Build) : Place → Bool
  | .loc l => l.wellFormed c
  | .num _ => true

/-- A boolean operand of the assembly is 0 or 1 (R88). -/
def isBit (b : Byte) : Bool := b = 0 || b = 1

/-- A list of bytes that starts at cell k lies inside the cells of the buffer that the host can name (log entry 15 for
AMAX above 128). -/
def fitsIn (c : Build) (b : Buffer) (k : Nat) (bytes : List Byte) : Bool := k + bytes.length ≤ b.reach c

/-- The limits R86 to R88 put on the operands of the assembly. R88's len(text) ≤ AMAX is `fitsIn`: for AMAX above 128 a
text that would run past the cells with an offset is ill-formed, the model's choice (log entry 15). -/
def HostLine.wellFormed (c : Build) : HostLine → Bool
  | .wr p _ | .rd p | .expect p _ => p.wellFormed c
  | .command i => i.wellFormedFor c.hasStrict
  | .lda text => fitsIn c .abuf 0 text
  | .args s w => isBit s && isBit w
  | .call text s w => fitsIn c .abuf 0 text && isBit s && isBit w
  | .ldb b k bytes | .expectCells b k bytes => fitsIn c b k bytes
  | .strict b => isBit b

end Sys2Proof
end

