-- ==== Sys2Proof/Certificates/Slice0/Obligations.lean ====
section
/-! DEFINITION. The statements for the provers. -/


open Sys2Proof Sys2Proof.Machine

/-! ## Reset, encoding and the register map -/

/-- spec/10_state.md R49: after reset every register and every buffer cell holds 0, and CLR restores the same values
(the build, and what stands outside the block, the bus and the returned bytes, aside). -/
def Obligations.ResetLeavesEveryRegisterAndCellZero : Prop :=
  State.reset.cmd = 0 ∧ State.reset.status = 0 ∧ State.reset.ctrl = 0 ∧ State.reset.argv = 0 ∧
  State.reset.chkst = 0 ∧ State.reset.chkres = 0 ∧ State.reset.alen = 0 ∧ State.reset.isScript = 0 ∧
  State.reset.isWitness = 0 ∧ State.reset.wver = 0 ∧ State.reset.wop = 0 ∧ State.reset.d5len = 0 ∧
  State.reset.plen = 0 ∧ State.reset.slen = 0 ∧ (∀ b i, readCell State.reset b i = 0) ∧
  (∀ off, hostRead State.reset off = 0) ∧
  ∀ s : State, ∃ t, exec .clr s = .next t ∧ { t with build := Build.spec, bus := [], returned := [] } = State.reset

/-- spec/30_encoding.md R83: the nine rows of the opcode map, all eight bits compared, and no other. -/
def Obligations.OpcodeMapHasTheNineRows : Prop :=
  decode [0x01] = .ok (.a2s, []) ∧ decode [0x02] = .ok (.b58dec, []) ∧ decode [0x03] = .ok (.b32dec, []) ∧
  decode [0x04] = .ok (.regrp, []) ∧ decode [0x05] = .ok (.mkpkh, []) ∧ decode [0x06] = .ok (.mksh, []) ∧
  decode [0x07] = .ok (.mkwp, []) ∧ decode [0x08] = .ok (.chk32, []) ∧ decode [0x09] = .ok (.clr, []) ∧
  ∀ b : Byte, (decodeByte b).isSome = true → 0x01 ≤ b ∧ b ≤ 0x09

/-- Decode and encode agree on every well-formed command, whatever follows it, and decoding reads nothing else
(derived from R80, R83). -/
def Obligations.DecodeAndEncodeAgree : Prop :=
  (∀ (i : Instr) (rest : List Byte), i.wellFormed = true → decode (encode i ++ rest) = .ok (i, rest)) ∧
  (∀ (bytes rest : List Byte) (i : Instr), decode bytes = .ok (i, rest) → bytes = encode i ++ rest)

/-- R84, spec/60_exceptions.md R197: the 247 illegal bytes (0x08 is one more in a block without strict mode); the port's
write of one to CMD stores it, sets STATUS to DONE = 1 and ILLEGAL_CMD, and changes nothing else. -/
def Obligations.IllegalCommandByteOnlyReportsIllegalCmd : Prop :=
  (∀ b : Byte, decodeByte b = none ↔ b = 0x00 ∨ (0x0A ≤ b ∧ b ≤ 0x0F) ∨ b.extractLsb' 4 4 ≠ 0) ∧
  ((List.range 256).filter fun n => decodeByte (BitVec.ofNat 8 n) = none).length = 247 ∧
  (∀ b : Byte, decodeByteFor false b = none ↔ decodeByte b = none ∨ b = 0x08) ∧
  ∀ (s : State) (b : Byte), decodeByteFor s.build.hasStrict b = none →
    hostWrite 0x000 b s = .next { s with cmd := b, status := 0x07 }

/-- The register map of spec/20_memory.md R62 names every well-formed location at one offset and every offset at most
once (derived). R62 gives the map for AMAX = 128; that a build with a smaller AMAX keeps it, and that in one with a
larger AMAX the cells past a buffer's window have no offset and are not well-formed as locations, is the model's choice
(log entry 15). -/
def Obligations.RegisterMapAndOffsetsAgree : Prop :=
  (∀ (c : Build) (l : Loc), l.wellFormed c = true →
    locate c l.offset = some l ∧ l.offset.toNat = l.offsetNat) ∧
  (∀ (c : Build) (o : Offset) (l : Loc), locate c o = some l → l.wellFormed c = true ∧ l.offset = o)

/-- A host operation is read back from its triple (we, off, data) (derived from R86). -/
def Obligations.HostOperationTriplesRoundTrip : Prop :=
  (∀ a : Access, Access.ofTriple a.triple = some a) ∧
  (∀ (x : Bool × Offset × Option Byte) (a : Access), Access.ofTriple x = some a → a.triple = x)

/-- The two reverse tables invert their charsets and are INV for every other byte, high-bit bytes among them; B32REV
gives both cases of a letter the same value (derived from spec/10_state.md R46, R47; the tables are the spec's from
general knowledge, log entry 8). -/
def Obligations.ReverseTablesInvertTheirCharsets : Prop :=
  (∀ k < 58, b58val (base58Alphabet.getD k 0) = some (BitVec.ofNat 6 k)) ∧
  (∀ k < 32, b32val (bech32Lower.getD k 0) = some (BitVec.ofNat 5 k)) ∧
  (∀ k < 32, b32val (bech32Upper.getD k 0) = some (BitVec.ofNat 5 k)) ∧
  (∀ (c : Byte) (k : Carry), b58val c = some k → base58Alphabet[k.toNat]? = some c) ∧
  (∀ (c : Byte) (k : Quint), b32val c = some k → bech32Lower[k.toNat]? = some c ∨ bech32Upper[k.toNat]? = some c) ∧
  (∀ c : Byte, 0x80 ≤ c → b58val c = none ∧ b32val c = none) ∧
  (∀ c : Byte, 0x41 ≤ c → c ≤ 0x5A → b32val c = b32val (c ||| 0x20)) ∧
  (∀ c ∈ charCodes ['0', 'I', 'O', 'l'], b58val c = none) ∧ (∀ c ∈ charCodes ['1', 'b', 'i', 'o'], b32val c = none)

/-! ## The host port and the step -/

/-- When the oldest input is the write to CMD of a byte that decodes to a command i the build has, the step is exec of i
on the state with that input taken and the byte in CMD (R81); the same for a word of the opcode table; and the step of
any write is the port's write (the queue of inputs is the model's, log entry 1). -/
def Obligations.StepRunsTheDecodedCommand : Prop :=
  (∀ (s : State) (b : Byte) (i : Instr) (rest : List Input),
    s.bus = .access (.write 0x000 b) :: rest → decode [b] = .ok (i, []) →
    i.wellFormedFor s.build.hasStrict = true → step s = exec i { s with bus := rest, cmd := b }) ∧
  (∀ (s : State) (w : Nat) (i : Instr), w < 256 → decodeTableWord 8 w = some i →
    i.wellFormedFor s.build.hasStrict = true →
    step (s.withFetchWord 8 w) = exec i { s with cmd := BitVec.ofNat 8 w }) ∧
  (∀ (s : State) (off : Offset) (v : Byte) (rest : List Input), s.bus = .access (.write off v) :: rest →
    step s = hostWrite off v { s with bus := rest })

/-- With no input the block keeps its state (derived from spec/00_scope.md R11, spec/60_exceptions.md R208). -/
def Obligations.IdleBlockKeepsItsState : Prop := ∀ s : State, s.bus = [] → step s = .next s

/-- The reset input and CLR leave the same state of the block, that of R49, and nothing else is reset (derived from
spec/44_dispatch.md R180, spec/70_reset_and_hazards.md R210, R212; that pending inputs and returned bytes are kept is
the model's choice, log entry 9). -/
def Obligations.ClrAndResetRestoreTheResetState : Prop :=
  decodeByte 0x09 = some .clr ∧
  (∀ s : State, exec .clr s = .next { State.reset with build := s.build, bus := s.bus, returned := s.returned }) ∧
  (∀ (s : State) (rest : List Input), s.bus = .reset :: rest →
    step s = .next { State.reset with build := s.build, bus := rest, returned := s.returned })

/-- A host read returns the byte at its offset and changes nothing of the block (derived from spec/20_memory.md R64,
R70; the list of returned bytes is the model's, log entry 2). -/
def Obligations.HostReadReturnsAByteAndChangesNothing : Prop :=
  ∀ (s : State) (off : Offset) (rest : List Input), s.bus = .access (.read off) :: rest →
    step s = .next { s with bus := rest, returned := s.returned ++ [hostRead s off] }

/-- What a host read returns at every offset of the map, which R62 gives for AMAX = 128 (derived from R62, R68,
spec/10_state.md R28, R39). -/
def Obligations.HostReadValuesFollowTheMap : Prop :=
  ∀ s : State, s.build.AMAX = 128 →
    hostRead s 0x000 = s.cmd ∧ hostRead s 0x001 = s.status ∧ hostRead s 0x002 = s.ctrl ∧ hostRead s 0x003 = s.argv ∧
    hostRead s 0x004 = s.alen ∧ hostRead s 0x005 = s.isScript ∧ hostRead s 0x006 = s.isWitness ∧
    hostRead s 0x007 = s.wver ∧ hostRead s 0x008 = s.wop ∧ hostRead s 0x009 = s.d5len ∧ hostRead s 0x00A = s.plen ∧
    hostRead s 0x00B = s.slen ∧ hostRead s 0x00C = s.chkst ∧
    hostRead s 0x010 = s.chkres.extractLsb' 0 8 ∧ hostRead s 0x011 = s.chkres.extractLsb' 8 8 ∧
    hostRead s 0x012 = s.chkres.extractLsb' 16 8 ∧ hostRead s 0x013 = (s.chkres.extractLsb' 24 6).setWidth 8 ∧
    (∀ i < 25, hostRead s (BitVec.ofNat 9 (0x020 + i)) = readCell s .p58 i) ∧
    (∀ i < 77, hostRead s (BitVec.ofNat 9 (0x040 + i)) = readCell s .script i) ∧
    (∀ i < 75, hostRead s (BitVec.ofNat 9 (0x090 + i)) = readCell s .prog i) ∧
    (∀ i < 128, hostRead s (BitVec.ofNat 9 (0x100 + i)) = readCell s .abuf i) ∧
    (∀ i < 120, hostRead s (BitVec.ofNat 9 (0x180 + i)) = ((readCell s .d5 i).extractLsb' 0 5).setWidth 8) ∧
    (∀ off : Offset, reservedOffset off → hostRead s off = 0x00)

/-- Writes to CTRL, ISSCRIPT and ISWITNESS keep bit 0 alone, and the latter two set ARGV.S and ARGV.W (derived from
R64, spec/10_state.md R24, R26, R30, R31); in a block without strict mode CTRL stays 0 (spec/00_scope.md R7). -/
def Obligations.ControlAndFlagWritesKeepBitZero : Prop :=
  (∀ (s : State) (v : Byte) (rest : List Input), s.bus = .access (.write 0x002 v) :: rest →
    step s = .next { s with bus := rest, ctrl := if s.build.hasStrict then v &&& 1 else 0 }) ∧
  (∀ (s : State) (v : Byte) (rest : List Input), s.bus = .access (.write 0x005 v) :: rest →
    step s = .next { s with bus := rest, isScript := v &&& 1, argv := s.argv ||| 0b010 }) ∧
  (∀ (s : State) (v : Byte) (rest : List Input), s.bus = .access (.write 0x006 v) :: rest →
    step s = .next { s with bus := rest, isWitness := v &&& 1, argv := s.argv ||| 0b100 })

/-- Writes to ALEN, D5LEN and PLEN are ignored above the capacity; a legal write to ALEN sets ARGV.A; WOP takes any
byte. The capacities are those AMAX gives (derived from R64, spec/10_state.md R29, R33 to R35, spec/00_scope.md R5). -/
def Obligations.LengthWritesAboveCapacityAreIgnored : Prop :=
  (∀ (s : State) (v : Byte) (rest : List Input), s.bus = .access (.write 0x004 v) :: rest →
    step s = if v.toNat ≤ s.build.AMAX then .next { s with bus := rest, alen := v, argv := s.argv ||| 0b001 }
      else .next { s with bus := rest }) ∧
  (∀ (s : State) (v : Byte) (rest : List Input), s.bus = .access (.write 0x009 v) :: rest →
    step s = if v.toNat ≤ s.build.AMAX - 8 then .next { s with bus := rest, d5len := v }
      else .next { s with bus := rest }) ∧
  (∀ (s : State) (v : Byte) (rest : List Input), s.bus = .access (.write 0x00A v) :: rest →
    step s = if v.toNat ≤ 5 * (s.build.AMAX - 8) / 8 then .next { s with bus := rest, plen := v }
      else .next { s with bus := rest }) ∧
  (∀ (s : State) (v : Byte) (rest : List Input), s.bus = .access (.write 0x008 v) :: rest →
    step s = .next { s with bus := rest, wop := v })

/-- A host write to a cell of P58, PROG, ABUF or D5 stores the byte there (bits 4:0 alone in D5) and changes no other
cell and no register (derived from R62, R64, spec/10_state.md R37 to R40). Which cells have an offset (`Buffer.reach`)
and where in a build with AMAX other than 128 is the model's choice (log entry 15). -/
def Obligations.CellWriteStoresOneCell : Prop :=
  ∀ (s : State) (b : Buffer) (i : Nat) (v : Byte) (rest : List Input), b ≠ .script → i < b.reach s.build →
    s.bus = .access (.write (Loc.cell b i).offset v) :: rest →
    ∃ t, step s = .next t ∧ t = { s with bus := rest, mem := t.mem } ∧
      readCell t b i = (if b = .d5 then v &&& 0x1F else v) ∧
      ∀ a, a ≠ b.base + i → t.mem.read a = s.mem.read a

/-- R68: a host write to a reserved offset or to a read-only register changes nothing and raises no error; a read of a
reserved offset returns 0x00. The reserved offsets are those at which the build has no location; for AMAX = 128 they
are the ones the map of R62 calls reserved, for another AMAX which they are is the model's choice (log entry 15).
Offsets above 0x1FF are not offsets of the block (the type has 9 bits). -/
def Obligations.ReservedAndReadOnlyWritesChangeNothing : Prop :=
  (∀ c : Build, c.AMAX = 128 → ∀ off : Offset, locate c off = none ↔ reservedOffset off) ∧
  (∀ (s : State) (off : Offset) (v : Byte),
    off ∈ [0x001#9, 0x003, 0x007, 0x00B, 0x00C, 0x010, 0x011, 0x012, 0x013] ∨ (0x040 ≤ off ∧ off ≤ 0x08C) ∨
      locate s.build off = none → hostWrite off v s = .next s) ∧
  ∀ (s : State) (off : Offset), locate s.build off = none → hostRead s off = 0x00

/-! ## The base58 decoder -/

/-- One multiply-add of a limb is exact: t = L × 58 + C fits in 38 bits, the limb keeps t mod 2^32, the carry is
t div 2^32 and stays at most 57 (spec/40_base58.md R103, R108). -/
def Obligations.LimbMultiplyAddIsExact : Prop :=
  ∀ (l : Limb) (c : Carry), c.toNat ≤ 57 →
    l.toNat * 58 + c.toNat < 2 ^ 38 ∧
    (limbMulAdd l c).1.toNat = (l.toNat * 58 + c.toNat) % 2 ^ 32 ∧
    (limbMulAdd l c).2.toNat = (l.toNat * 58 + c.toNat) / 2 ^ 32 ∧ (limbMulAdd l c).2.toNat ≤ 57

/-- After all digits of a valid string the seven limbs hold V mod 2^224, and the overflow indicator with bits 31:8 of
L[0] says exactly whether V ≥ 2^200 (R104, R107). -/
def Obligations.LimbsHoldTheValueModulo2Pow224 : Prop :=
  ∀ (str : List Byte) (ds : List Carry), b58digits str = some ds →
    accumulatorValue (accumulate ds) = b58value ds % 2 ^ 224 ∧
    (tooWide (accumulate ds) = true ↔ 2 ^ 200 ≤ b58value ds)

/-- B58DEC on a valid string (in strict mode, of a value below 2^200): P58 is V mod 2^200 in 25 big-endian bytes, STATUS
is DONE and OK, and nothing else changes (R100 to R105, R109). -/
def Obligations.B58decStoresTheValueModulo2Pow200 : Prop :=
  ∀ (s : State) (ds : List Carry), b58digits (inputString s) = some ds →
    (strictOn s = true → b58value ds < 2 ^ 200) →
    ∃ t, exec .b58dec s = .next t ∧ t = { s with status := 0x04, mem := t.mem } ∧ sameExceptIn [.p58] s t ∧
      bufferIs t .p58 (bigEndian 25 (b58value ds % 2 ^ 200))

/-- B58DEC in strict mode on an invalid character or a value of 2^200 or more: INVALID_ADDRESS, P58 zero, everything
else unchanged (R107, spec/60_exceptions.md R196). -/
def Obligations.B58decStrictRejectsInvalidOrTooWide : Prop :=
  ∀ s : State, strictOn s = true →
    (b58digits (inputString s) = none ∨ ∃ ds, b58digits (inputString s) = some ds ∧ 2 ^ 200 ≤ b58value ds) →
    ∃ t, exec .b58dec s = .next t ∧ t = { s with status := 0x06, mem := t.mem } ∧ sameExceptIn [.p58] s t ∧
      bufferIs t .p58 []

/-- B58DEC in permissive mode on a string with a byte outside the alphabet completes with the free payload of the string
(R106). -/
def Obligations.B58decPermissiveInvalidGivesTheFreePayload : Prop :=
  ∀ s : State, strictOn s = false → (∃ c ∈ inputString s, b58val c = none) →
    ∃ t, exec .b58dec s = .next t ∧ t = { s with status := 0x04, mem := t.mem } ∧ sameExceptIn [.p58] s t ∧
      bufferIs t .p58 (Config.garb58 (inputString s)).toList

/-- For a 25-byte payload P with number value p, any string of base58 characters with V = p decodes to P, in either mode;
the `'1'`s the standard encoder puts in front do not change V (derived from R111). -/
def Obligations.B58decRoundTripsEveryPayload : Prop :=
  ∀ (s : State) (p : List Byte) (ds : List Carry), p.length = 25 → b58digits (inputString s) = some ds →
    b58value ds = bigEndianValue p →
    b58digits (0x31 :: inputString s) = some (0 :: ds) ∧ b58value (0 :: ds) = b58value ds ∧
    ∃ t, exec .b58dec s = .next t ∧ t.status = 0x04 ∧ bufferIs t .p58 p

/-! ## The regrouper -/

/-- spec/42_regroup.md R151: the bit-buffer datapath computes the bit-stream definition: floor(5 × m / 8) bytes, bit
7 − i of byte k is stream bit 8k + i; as a number, the values in base 32 without the last (5 × m) mod 8 bits (derived:
R152 marks the equality as its own inference, and the datapath's inner loop is log entry 13). -/
def Obligations.RegroupFollowsTheBitStream : Prop :=
  ∀ vs : List Quint,
    (regroup vs).length = 5 * vs.length / 8 ∧
    (∀ k i, k < 5 * vs.length / 8 → i < 8 → ((regroup vs).getD k 0).getLsbD (7 - i) = streamBit vs (8 * k + i)) ∧
    bigEndianValue (regroup vs) = vs.foldl (fun n v => n * 32 + v.toNat) 0 / 2 ^ (5 * vs.length % 8)

/-- REGRP: command byte 0x04; PLEN and PROG from the first D5LEN cells of D5, zero above, STATUS DONE and OK, nothing
else changed (R150; the hypothesis is part of the invariant). -/
def Obligations.RegrpRegroupsD5IntoProg : Prop :=
  decodeByte 0x04 = some .regrp ∧
  ∀ s : State, s.d5len.toNat ≤ s.build.DMAX →
    ∃ t, exec .regrp s = .next t ∧ sameExceptIn [.prog] s t ∧
      t = { s with plen := BitVec.ofNat 8 (5 * s.d5len.toNat / 8), status := 0x04, mem := t.mem } ∧
      bufferIs t .prog (regroup ((List.range s.d5len.toNat).map fun i => (readCell s .d5 i).extractLsb' 0 5))

/-! ## The bech32 decoder and the validator -/

/-- The separator is the last `'1'`; a string is framed when at least 7 characters follow it, and then there is at least
one used data character and the used ones are those at indices sep+1 to n−7 (derived from spec/41_bech32.md R122). -/
def Obligations.FramingFindsTheLastOne : Prop :=
  (∀ (str : List Byte) (i : Nat), separator str = some i ↔
    str[i]? = some 0x31 ∧ ∀ j, i < j → str[j]? ≠ some 0x31) ∧
  (∀ (str : List Byte) (sep : Nat), framing str = some sep ↔ separator str = some sep ∧ 7 ≤ str.length - sep - 1) ∧
  (∀ (str : List Byte) (sep : Nat), framing str = some sep →
    1 ≤ dataLength str sep ∧ (usedData str sep).length = dataLength str sep ∧
    ∀ k < dataLength str sep, (usedData str sep)[k]? = str[sep + 1 + k]?) ∧
  b32val 0x31 = none

/-- R125: version 0 as it is, every other value + 0x50, with no wrap; the decoder itself puts it in WOP. -/
def Obligations.VersionOpcodeIsZeroOrOffset : Prop :=
  versionOpcode 0 = 0x00 ∧
  (∀ v : Quint, v ≠ 0 → (versionOpcode v).toNat = v.toNat + 0x50 ∧ versionOpcode v ≤ 0x6f) ∧
  (∀ v : Quint, v ≠ 0 → v.toNat ≤ 16 → 0x51 ≤ versionOpcode v ∧ versionOpcode v ≤ 0x60) ∧
  ∀ (c : Build) (str : List Byte) (sep : Nat) (u : Quint) (us : List Quint), framing str = some sep →
    lookupAll b32val (usedData str sep) = some (u :: us) →
    (b32body c str).wver = u.setWidth 8 ∧ (b32body c str).wop = versionOpcode u

/-- B32DEC in permissive mode on a framed string of valid used characters (R121 to R126): the version, its opcode, the
values, the program, their lengths, zero fill, STATUS DONE and OK, nothing else. -/
def Obligations.B32decDecodesAFramedValidString : Prop :=
  ∀ (s : State) (sep : Nat) (u : Quint) (us : List Quint), strictOn s = false →
    framing (inputString s) = some sep → lookupAll b32val (usedData (inputString s) sep) = some (u :: us) →
    ∃ t, exec .b32dec s = .next t ∧ sameExceptIn [.d5, .prog] s t ∧
      t = { s with wver := u.setWidth 8, wop := if u = 0 then 0x00 else u.setWidth 8 + 0x50,
                   d5len := BitVec.ofNat 8 us.length, plen := BitVec.ofNat 8 (5 * us.length / 8),
                   status := 0x04, mem := t.mem } ∧
      us.length ≤ s.build.DMAX ∧ bufferIs t .d5 (us.map (·.setWidth 8)) ∧ bufferIs t .prog (regroup us)

/-- B32DEC in permissive mode on a string that is not framed: two free bytes, lengths 0, buffers zero, OK (R127). -/
def Obligations.B32decUnframedGivesTwoFreeBytes : Prop :=
  ∀ s : State, strictOn s = false → framing (inputString s) = none →
    ∃ t, exec .b32dec s = .next t ∧ sameExceptIn [.d5, .prog] s t ∧
      t = { s with wver := (Config.garbV (inputString s)).wver, wop := (Config.garbV (inputString s)).wop,
                   d5len := 0, plen := 0, status := 0x04, mem := t.mem } ∧
      bufferIs t .d5 [] ∧ bufferIs t .prog []

/-- B32DEC in permissive mode on a framed string with an invalid used character: the lengths are kept, the values are
free, OK (R128). -/
def Obligations.B32decInvalidCharacterKeepsTheLengths : Prop :=
  ∀ (s : State) (sep : Nat), strictOn s = false → framing (inputString s) = some sep →
    (∃ c ∈ usedData (inputString s) sep, b32val c = none) →
    ∃ t, exec .b32dec s = .next t ∧ sameExceptIn [.d5, .prog] s t ∧
      t = { s with wver := (Config.garb32 s.build (inputString s)).wver,
                   wop := (Config.garb32 s.build (inputString s)).wop,
                   d5len := BitVec.ofNat 8 (dataLength (inputString s) sep - 1),
                   plen := BitVec.ofNat 8 (5 * (dataLength (inputString s) sep - 1) / 8),
                   status := 0x04, mem := t.mem } ∧
      bufferIs t .d5 (((Config.garb32 s.build (inputString s)).d5.toList.take (dataLength (inputString s) sep - 1)).map
        (·.setWidth 8)) ∧
      bufferIs t .prog
        ((Config.garb32 s.build (inputString s)).prog.toList.take (5 * (dataLength (inputString s) sep - 1) / 8))

/-- B32DEC in strict mode on a string the validator does not pass: the failing validation in CHKST and CHKRES, the
result registers zero, INVALID_ADDRESS, nothing else (R120, R136, spec/60_exceptions.md R196). -/
def Obligations.B32decStrictRejectsWhatTheValidatorRejects : Prop :=
  ∀ s : State, strictOn s = true → (validate (inputString s)).sumOk = false →
    ∃ t c, exec .b32dec s = .next t ∧ exec .chk32 s = .next c ∧ sameExceptIn [.d5, .prog] s t ∧
      t = { s with wver := 0, wop := 0, d5len := 0, plen := 0, chkst := c.chkst, chkres := c.chkres,
                   status := 0x06, mem := t.mem } ∧
      bufferIs t .d5 [] ∧ bufferIs t .prog []

/-- B32DEC in strict mode on a string the validator passes does what it does in permissive mode and sets CHKST to 0x07
and CHKRES to 1 (R136). -/
def Obligations.B32decStrictAcceptsLikePermissive : Prop :=
  ∀ s : State, strictOn s = true → (validate (inputString s)).sumOk = true →
    ∃ t, exec .b32dec { s with ctrl := 0 } = .next t ∧
      exec .b32dec s = .next { t with ctrl := s.ctrl, chkst := 0x07, chkres := 1 }

/-- A string the validator passes is framed and every used data character is valid, so strict mode uses no free value
(R136). -/
def Obligations.PassingValidationImpliesDecodable : Prop :=
  ∀ str : List Byte, (validate str).sumOk = true →
    ∃ sep us, framing str = some sep ∧ 1 ≤ sep ∧ lookupAll b32val (usedData str sep) = some us

/-- CHK32: the nested status bits and the residue, STATUS DONE and OK, nothing else; no failure is an error. The residue
is that of the value sequence R133 lists, element by element: the folded human-readable part, a 0, the data part with
its six checksum characters (R130 to R133, R135). -/
def Obligations.Chk32ReportsFrameCharsetAndSum : Prop :=
  ∀ s : State, ∃ t, exec .chk32 s = .next t ∧ t = { s with chkst := t.chkst, chkres := t.chkres, status := 0x04 } ∧
    ((framing (inputString s) = none ∨ framing (inputString s) = some 0) → t.chkst = 0x00 ∧ t.chkres = 0) ∧
    (∀ sep, framing (inputString s) = some sep → 1 ≤ sep →
      ((∃ c ∈ (inputString s).drop (sep + 1), b32val c = none) → t.chkst = 0x01 ∧ t.chkres = 0) ∧
      ((∀ c ∈ (inputString s).drop (sep + 1), b32val c ≠ none) →
        ∃ vs, isValueSequence (inputString s) sep vs ∧ t.chkres = polymod vs ∧
          t.chkst = if t.chkres = 1 then 0x07 else 0x03))

/-- R134, bit by bit: the register starts at 1; a step shifts it left by 5, puts the value in the low bits, and adds
GEN[i] for each of the five bits b[i] shifted out; what it holds after the last element of the value sequence (R133) is
the residue. -/
def Obligations.PolynomialStepBitByBit : Prop :=
  polymod [] = 1 ∧
  (∀ (str : List Byte) (sep : Nat), framing str = some sep → 1 ≤ sep → (∀ c ∈ str.drop (sep + 1), b32val c ≠ none) →
    ∃ vs, isValueSequence str sep vs ∧ (validate str).residue = polymod vs) ∧
  ∀ (vs : List Quint) (v : Quint), ∀ j < 30,
    (polymod (vs ++ [v])).getLsbD j =
      ((if j < 5 then v.getLsbD j else (polymod vs).getLsbD (j - 5)) ^^
        ((polymod vs).getLsbD 25 && (0x3b6a57b2#30).getLsbD j) ^^
        ((polymod vs).getLsbD 26 && (0x26508e6d#30).getLsbD j) ^^
        ((polymod vs).getLsbD 27 && (0x1ea119fa#30).getLsbD j) ^^
        ((polymod vs).getLsbD 28 && (0x3d4233dd#30).getLsbD j) ^^
        ((polymod vs).getLsbD 29 && (0x2a1462b3#30).getLsbD j))

/-- The validator detects a change of one data character into one of another value (derived from R131 to R135; not a
sentence of the spec): of two strings that differ so, at most one passes. A change into `'1'` moves the separator and is
left out; a change of letter case keeps the value and is none. -/
def Obligations.ValidatorDetectsOneChangedDataCharacter : Prop :=
  ∀ (pre post : List Byte) (c d : Byte) (sep : Nat), separator (pre ++ c :: post) = some sep → sep < pre.length →
    d ≠ 0x31 → b32val c ≠ b32val d → (validate (pre ++ c :: post)).sumOk = true →
    (validate (pre ++ d :: post)).sumOk = false

/-- After B32DEC on a framed string of valid used characters (in strict mode, one the validator passes), REGRP leaves
every register, PLEN among them, and every cell, those of PROG among them, as they were (derived from R126). -/
def Obligations.RegrpAfterB32decChangesNothing : Prop :=
  ∀ (s : State) (sep : Nat) (us : List Quint), framing (inputString s) = some sep →
    lookupAll b32val (usedData (inputString s) sep) = some us →
    (strictOn s = true → (validate (inputString s)).sumOk = true) →
    ∃ t r, exec .b32dec s = .next t ∧ exec .regrp t = .next r ∧ r = { t with mem := r.mem } ∧
      ∀ a, r.mem.read a = t.mem.read a

/-! ## The script assembler -/

/-- MKPKH (spec/43_script.md R160). That the build is legal, which R5's "77 ≥ 25" asks, is part of the invariant. -/
def Obligations.MkpkhAssemblesThePubkeyHashScript : Prop :=
  decodeByte 0x05 = some .mkpkh ∧
  ∀ s : State, s.build.legal → ∃ t, exec .mkpkh s = .next t ∧ sameExceptIn [.script] s t ∧
    t = { s with slen := 25, status := 0x04, mem := t.mem } ∧
    readCell t .script 0 = 0x76 ∧ readCell t .script 1 = 0xa9 ∧ readCell t .script 2 = 0x14 ∧
    (∀ i < 20, readCell t .script (3 + i) = readCell s .p58 (1 + i)) ∧
    readCell t .script 23 = 0x88 ∧ readCell t .script 24 = 0xac ∧
    ∀ i, 25 ≤ i → i < s.build.SMAX → readCell t .script i = 0

/-- MKSH (R161); the hypothesis as for MKPKH. -/
def Obligations.MkshAssemblesTheScriptHashScript : Prop :=
  decodeByte 0x06 = some .mksh ∧
  ∀ s : State, s.build.legal → ∃ t, exec .mksh s = .next t ∧ sameExceptIn [.script] s t ∧
    t = { s with slen := 23, status := 0x04, mem := t.mem } ∧
    readCell t .script 0 = 0xa9 ∧ readCell t .script 1 = 0x14 ∧
    (∀ i < 20, readCell t .script (2 + i) = readCell s .p58 (1 + i)) ∧
    readCell t .script 22 = 0x87 ∧ ∀ i, 23 ≤ i → i < s.build.SMAX → readCell t .script i = 0

/-- MKWP (R162; the hypothesis is part of the invariant). The push-length byte is PLEN in every build; with PMAX above
75 that is the model's choice (log entry 16). -/
def Obligations.MkwpAssemblesTheWitnessScript : Prop :=
  decodeByte 0x07 = some .mkwp ∧
  ∀ s : State, s.plen.toNat ≤ s.build.PMAX → ∃ t, exec .mkwp s = .next t ∧ sameExceptIn [.script] s t ∧
    t = { s with slen := 2 + s.plen, status := 0x04, mem := t.mem } ∧
    t.slen.toNat = 2 + s.plen.toNat ∧ t.slen.toNat ≤ s.build.SMAX ∧
    readCell t .script 0 = s.wop ∧ readCell t .script 1 = s.plen ∧
    (∀ i < s.plen.toNat, readCell t .script (2 + i) = readCell s .prog i) ∧
    ∀ i, 2 + s.plen.toNat ≤ i → i < s.build.SMAX → readCell t .script i = 0

/-! ## The entry point -/

/-- spec/60_exceptions.md R195: the port's write of the A2S byte without the three arguments: MISSING_ARG, whatever the
address and the mode; SCRIPT zero, SLEN = 0, ARGV = 0, CMD = 0x01, everything else unchanged (spec/44_dispatch.md
R171: no decoder runs). -/
def Obligations.A2sMissingArgumentProducesNoOutput : Prop :=
  ∀ s : State, s.argv.extractLsb' 0 3 ≠ 0b111 →
    ∃ t, hostWrite 0x000 0x01 s = .next t ∧ exec .a2s { s with cmd := 0x01 } = .next t ∧ sameExceptIn [.script] s t ∧
      t = { s with cmd := 0x01, slen := 0, argv := 0, status := 0x05, mem := t.mem } ∧ bufferIs t .script []

/-- A2S on a legacy path is B58DEC, then the template the flag isScript chooses, then ARGV cleared; when B58DEC rejects
the string, SCRIPT and SLEN are zero too (R172, R173, R175, spec/60_exceptions.md R196). -/
def Obligations.A2sLegacyIsDecodeThenTemplate : Prop :=
  ∀ s : State, s.argv.extractLsb' 0 3 = 0b111 → s.isWitness.getLsbD 0 = false →
    ∃ t, exec .b58dec s = .next t ∧
      (t.status = 0x04 →
        exec .a2s s = mapNext clearArgv (exec (if s.isScript.getLsbD 0 then .mksh else .mkpkh) t)) ∧
      (t.status ≠ 0x04 → ∃ u, exec .a2s s = .next u ∧ sameExceptIn [.script] t u ∧
        u = { t with slen := 0, argv := 0, mem := u.mem } ∧ u.status = 0x06 ∧ bufferIs u .script [])

/-- A2S on the witness path is B32DEC, then MKWP, then ARGV cleared; when B32DEC rejects the string, SCRIPT and SLEN
are zero too (R172, R174, R175, spec/60_exceptions.md R196). -/
def Obligations.A2sWitnessIsDecodeThenTemplate : Prop :=
  ∀ s : State, s.argv.extractLsb' 0 3 = 0b111 → s.isWitness.getLsbD 0 = true →
    ∃ t, exec .b32dec s = .next t ∧
      (t.status = 0x04 → exec .a2s s = mapNext clearArgv (exec .mkwp t)) ∧
      (t.status ≠ 0x04 → ∃ u, exec .a2s s = .next u ∧ sameExceptIn [.script] t u ∧
        u = { t with slen := 0, argv := 0, mem := u.mem } ∧ u.status = 0x06 ∧ bufferIs u .script [])

/-- The legacy call from end to end: on a valid string the script holds bytes 1 to 20 of V mod 2^200 between the fixed
bytes of the template isScript chooses (R170, R172, R173, spec/40_base58.md R105, spec/43_script.md R160, R161). That the
build is legal, as for MKPKH, is part of the invariant (log entry 7). -/
def Obligations.A2sLegacyScriptHoldsTheHashOfTheValue : Prop :=
  ∀ (s : State) (ds : List Carry), s.build.legal → s.argv.extractLsb' 0 3 = 0b111 → s.isWitness.getLsbD 0 = false →
    b58digits (inputString s) = some ds → (strictOn s = true → b58value ds < 2 ^ 200) →
    ∃ t, exec .a2s s = .next t ∧ sameExceptIn [.p58, .script] s t ∧
      t = { s with argv := 0, status := 0x04, slen := if s.isScript.getLsbD 0 then 23 else 25, mem := t.mem } ∧
      bufferIs t .p58 (bigEndian 25 (b58value ds % 2 ^ 200)) ∧
      bufferIs t .script (
        let hash := ((bigEndian 25 (b58value ds % 2 ^ 200)).drop 1).take 20
        if s.isScript.getLsbD 0 then [0xa9, 0x14] ++ hash ++ [0x87] else [0x76, 0xa9, 0x14] ++ hash ++ [0x88, 0xac])

/-- The witness call from end to end, permissive mode, on a framed string of valid used characters (R170, R172, R174,
spec/43_script.md R162). The push-length byte is the program's length in every build; for a program longer than 75 bytes
(AMAX above 128) that is the model's choice (log entry 16). -/
def Obligations.A2sWitnessScriptHoldsTheProgram : Prop :=
  ∀ (s : State) (sep : Nat) (u : Quint) (us : List Quint), s.argv.extractLsb' 0 3 = 0b111 →
    s.isWitness.getLsbD 0 = true → strictOn s = false →
    framing (inputString s) = some sep → lookupAll b32val (usedData (inputString s) sep) = some (u :: us) →
    ∃ t, exec .a2s s = .next t ∧ sameExceptIn [.d5, .prog, .script] s t ∧
      t = { s with argv := 0, status := 0x04, slen := BitVec.ofNat 8 (2 + 5 * us.length / 8),
                   wver := u.setWidth 8, wop := if u = 0 then 0x00 else u.setWidth 8 + 0x50,
                   d5len := BitVec.ofNat 8 us.length, plen := BitVec.ofNat 8 (5 * us.length / 8), mem := t.mem } ∧
      bufferIs t .d5 (us.map (·.setWidth 8)) ∧ bufferIs t .prog (regroup us) ∧
      bufferIs t .script
        ([if u = 0 then 0x00 else u.setWidth 8 + 0x50, BitVec.ofNat 8 (5 * us.length / 8)] ++ regroup us)

/-- With CTRL.STRICT = 0 a call with three arguments always completes with ERR = OK (R170, spec/60_exceptions.md R191),
whatever the string and the flags. -/
def Obligations.A2sPermissiveCallAlwaysCompletes : Prop :=
  ∀ s : State, s.argv.extractLsb' 0 3 = 0b111 → s.ctrl.getLsbD 0 = false →
    ∃ t, exec .a2s s = .next t ∧ t.status = 0x04 ∧ t.argv = 0

/-- On the witness path isScript is ignored: changing it changes nothing else of the result (R172). -/
def Obligations.A2sWitnessPathIgnoresIsScript : Prop :=
  ∀ (s : State) (x : Byte), s.isWitness.getLsbD 0 = true → s.argv.extractLsb' 0 3 = 0b111 →
    ∃ t, exec .a2s s = .next t ∧ exec .a2s { s with isScript := x } = .next { t with isScript := x }

/-- Every A2S clears ARGV, whatever the outcome, and keeps the argument registers and CTRL (R175). -/
def Obligations.A2sClearsArgvAndKeepsTheArguments : Prop :=
  ∀ s : State, ∃ t, exec .a2s s = .next t ∧ t.argv = 0 ∧ t.alen = s.alen ∧ t.isScript = s.isScript ∧
    t.isWitness = s.isWitness ∧ t.ctrl = s.ctrl ∧ ∀ i < s.build.AMAX, readCell t .abuf i = readCell s .abuf i

/-- Idempotence in the strong form of R175: a second call with the same arguments leaves the state of the first (the
hypothesis on the memory is part of the invariant). -/
def Obligations.A2sTwiceIsA2sOnce : Prop :=
  ∀ s : State, Memory.wf s.mem → s.argv.extractLsb' 0 3 = 0b111 →
    ∃ t, exec .a2s s = .next t ∧ exec .a2s { t with argv := s.argv } = .next t

/-- The result of A2S depends, in a given build, only on ABUF[0..ALEN), ISSCRIPT, ISWITNESS, CTRL.STRICT and ARGV
(spec/10_state.md R50). -/
def Obligations.A2sResultDependsOnlyOnItsInputs : Prop :=
  ∀ s s' : State, s'.build = s.build → inputString s' = inputString s → s'.ctrl.getLsbD 0 = s.ctrl.getLsbD 0 →
    s'.argv.extractLsb' 0 3 = s.argv.extractLsb' 0 3 → s'.isWitness.getLsbD 0 = s.isWitness.getLsbD 0 →
    s'.isScript.getLsbD 0 = s.isScript.getLsbD 0 →
    ∃ t t', exec .a2s s = .next t ∧ exec .a2s s' = .next t' ∧ t'.status = t.status ∧ t'.slen = t.slen ∧
      t'.argv = t.argv ∧ (∀ i < s.build.SMAX, readCell t' .script i = readCell t .script i) ∧
      (s.argv.extractLsb' 0 3 = 0b111 →
        if s.isWitness.getLsbD 0 then
          t'.wver = t.wver ∧ t'.wop = t.wop ∧ t'.d5len = t.d5len ∧ t'.plen = t.plen ∧
          (∀ i < s.build.DMAX, readCell t' .d5 i = readCell t .d5 i) ∧
          (∀ i < s.build.PMAX, readCell t' .prog i = readCell t .prog i) ∧
          (s.ctrl.getLsbD 0 = true → t'.chkst = t.chkst ∧ t'.chkres = t.chkres)
        else ∀ i < 25, readCell t' .p58 i = readCell t .p58 i)

/-- `CALL "text", s, w` (spec/30_encoding.md R88): its accesses put the string in ABUF, its length in ALEN, the flags in
ISSCRIPT and ISWITNESS, supply all three arguments, and run A2S on the state so reached; nothing else changes on the
way, the cells of ABUF above the string among them (derived from R70, R88, spec/70_reset_and_hazards.md R213; the queue
of inputs is the model's, log entry 1). The host reaches 128 cells of ABUF, in a build with a larger AMAX too (log
entry 15). -/
def Obligations.CallLoadsTheArgumentsAndRunsA2s : Prop :=
  ∀ (s : State) (text : List Byte) (f w : Byte) (rest : List Input), text.length ≤ s.build.AMAX → text.length ≤ 128 →
    s.bus = programInputs [.call text f w] ++ rest →
    ∃ u, Host.Core.run Sys2Proof.core (text.length + 4) s = exec .a2s u ∧ inputString u = text ∧
      sameExceptIn [.abuf] s u ∧
      (∀ i, text.length ≤ i → i < s.build.AMAX → readCell u .abuf i = readCell s .abuf i) ∧
      u = { s with bus := rest, cmd := 0x01, alen := BitVec.ofNat 8 text.length, isScript := f &&& 1,
                   isWitness := w &&& 1, argv := s.argv ||| 0b111, mem := u.mem }

/-! ## Frames and whole-machine rules -/

/-- A command other than CLR stores only in the buffers the table of spec/10_state.md R42 gives it: every other address
reads as before. -/
def Obligations.CommandsStoreOnlyInTheirBuffers : Prop :=
  ∀ (i : Instr) (s t : State), i ≠ .clr → exec i s = .next t → sameExceptIn (buffersWritten i s) s t

/-- A command other than CLR writes only the registers the table of R42 gives it. -/
def Obligations.CommandsWriteOnlyTheirRegisters : Prop :=
  ∀ (i : Instr) (s t : State), i ≠ .clr → exec i s = .next t →
    t.build = s.build ∧ t.cmd = s.cmd ∧ t.ctrl = s.ctrl ∧ t.alen = s.alen ∧ t.isScript = s.isScript ∧
    t.isWitness = s.isWitness ∧ t.bus = s.bus ∧ t.returned = s.returned ∧
    (i ≠ .a2s → t.argv = s.argv) ∧
    (decodesBech32 i s = false → t.wver = s.wver ∧ t.wop = s.wop ∧ t.d5len = s.d5len) ∧
    (decodesBech32 i s = false → i ≠ .regrp → t.plen = s.plen) ∧
    (i ∉ [.mkpkh, .mksh, .mkwp, .a2s] → t.slen = s.slen) ∧
    (i ≠ .chk32 → (decodesBech32 i s && strictOn s) = false → t.chkst = s.chkst ∧ t.chkres = s.chkres)

/-- Zero fill (R43): the cells at and above a length a command has written are zero. -/
def Obligations.CommandsZeroFillAboveTheNewLength : Prop :=
  ∀ (i : Instr) (s t : State), exec i s = .next t →
    (decodesBech32 i s = true → ∀ k, t.d5len.toNat ≤ k → k < t.build.DMAX → readCell t .d5 k = 0) ∧
    (decodesBech32 i s = true ∨ i = .regrp → ∀ k, t.plen.toNat ≤ k → k < t.build.PMAX → readCell t .prog k = 0) ∧
    (i ∈ [.mkpkh, .mksh, .mkwp, .a2s] → ∀ k, t.slen.toNat ≤ k → k < t.build.SMAX → readCell t .script k = 0)

/-- Every command other than CLR ends with DONE = 1 and exactly one outcome; MISSING_ARG is A2S's alone,
INVALID_ADDRESS is the decoders' in strict mode alone, no command that decodes raises ILLEGAL_CMD
(spec/60_exceptions.md R190). -/
def Obligations.CommandsEndInOneOutcome : Prop :=
  ∀ (i : Instr) (s : State), i ≠ .clr →
    ∃ t, exec i s = .next t ∧
      (t.status = 0x04 ∨
        (t.status = 0x05 ∧ i = .a2s ∧ s.argv.extractLsb' 0 3 ≠ 0b111) ∨
        (t.status = 0x06 ∧ i ∈ [.b58dec, .b32dec, .a2s] ∧ s.ctrl.getLsbD 0 = true))

/-- There is no stuck state: every step goes on, takes exactly the oldest input, and keeps what was returned
(spec/00_scope.md R13, spec/20_memory.md R70). -/
def Obligations.EveryStepGoesOnAndTakesOneInput : Prop :=
  ∀ s : State, ∃ t, step s = .next t ∧ t.bus = s.bus.tail ∧ s.returned <+: t.returned

/-- What can clear what (spec/70_reset_and_hazards.md R212): a bit of ARGV is cleared only by reset, CLR or A2S;
STATUS.DONE only by reset or CLR; CTRL changes only by reset, CLR or a host write to it. -/
def Obligations.OnlyNamedInputsClearArgvAndDoneOrChangeCtrl : Prop :=
  ∀ (s t : State), step s = .next t →
    (s.argv &&& t.argv = s.argv ∨ s.bus.head? = some .reset ∨ s.bus.head? = some (.access (.write 0x000 0x09)) ∨
      s.bus.head? = some (.access (.write 0x000 0x01))) ∧
    (s.status.getLsbD 2 = true → t.status.getLsbD 2 = true ∨ s.bus.head? = some .reset ∨
      s.bus.head? = some (.access (.write 0x000 0x09))) ∧
    (t.ctrl = s.ctrl ∨ s.bus.head? = some .reset ∨ s.bus.head? = some (.access (.write 0x000 0x09)) ∨
      ∃ v, s.bus.head? = some (.access (.write 0x002 v)))

/-- The address is immutable to the commands: an ABUF cell changes only by reset, CLR or a host write to that cell
(spec/10_state.md R37). In a build with AMAX other than 128 the cell's offset, and that a cell from 128 on has none, so
that no host write changes it, is the model's choice (log entry 15). -/
def Obligations.OnlyHostResetAndClrChangeAbuf : Prop :=
  ∀ (s t : State) (i : Nat), i < s.build.AMAX → step s = .next t →
    readCell t .abuf i = readCell s .abuf i ∨ s.bus.head? = some .reset ∨
      s.bus.head? = some (.access (.write 0x000 0x09)) ∨
      ∃ v, i < 128 ∧ s.bus.head? = some (.access (.write (BitVec.ofNat 9 (0x100 + i)) v))

/-- The sizes of the block and how they follow from the argument AMAX, which can be any number of 8 to 255
(spec/00_scope.md R5, spec/92_eei_decisions.md D3); no step changes the build. That the build is a field of State, and
its type's bound, are the model's (log entry 7). -/
def Obligations.SizesFollowAmaxAndNoStepChangesTheBuild : Prop :=
  (Config.NLIMB = 7 ∧ Config.P58LEN = 25 ∧ Config.CKLEN = 6) ∧
  (∀ c : Build, Buffer.p58.capacity c = 25 ∧ Buffer.abuf.capacity c = c.AMAX ∧ Buffer.d5.capacity c = c.AMAX - 8 ∧
    Buffer.prog.capacity c = 5 * (c.AMAX - 8) / 8 ∧ Buffer.script.capacity c = 5 * (c.AMAX - 8) / 8 + 2) ∧
  (Build.spec.AMAX = 128 ∧ Build.spec.DMAX = 120 ∧ Build.spec.PMAX = 75 ∧ Build.spec.SMAX = 77) ∧
  (∀ n, 8 ≤ n → n ≤ 255 → ∃ c : Build, c.AMAX = n) ∧
  ∀ s t : State, step s = .next t → t.build = s.build

/-! ## The invariant -/

/-- The invariant holds at reset. -/
def Obligations.InvariantHoldsAtReset : Prop := State.reset.Inv

/-- Every step keeps the invariant: the build stays legal, CTRL stays 0 without the strict-mode unit, the memory stays
canonical and inside the buffers with 5-bit cells in D5, the lengths stay legal, the reserved bits stay 0, the checksum status stays nested, SCRIPT stays zero above SLEN, and the
outcome stays consistent (spec/10_state.md R23 to R36, R39, R43). -/
def Obligations.EveryStepKeepsTheInvariant : Prop :=
  ∀ s t : State, s.Inv → step s = .next t → t.Inv
end

