-- ==== Sys2Proof/Laws/Memory.lean ====
section
/-! SUPPORT. Laws of the memory: what a store changes and what it leaves, and that it keeps the canonical form. -/

namespace Sys2Proof.Machine

@[simp] theorem Memory.read_nil (a : Nat) : Memory.read [] a = 0#8 := rfl

@[simp] theorem Memory.unlisted_eq : Memory.unlisted = 0#8 := rfl

theorem Memory.read_cons (k : Nat) (v : Byte) (m : Memory) (a : Nat) :
    Memory.read ((k, v) :: m) a = if k = a then v else m.read a := rfl

/-- A cell no entry of which is listed reads as unlisted. -/
theorem Memory.read_of_not_listed {m : Memory} {a : Nat} (h : ∀ c ∈ m, c.1 ≠ a) : m.read a = 0#8 := by
  induction m with
  | nil => rfl
  | cons c m ih =>
    obtain ⟨k, v⟩ := c
    rw [Memory.read_cons, if_neg (h (k, v) (by simp)), ih fun c hc => h c (by simp [hc])]

theorem Memory.read_append_right {m m' : Memory} {a : Nat} (h : ∀ c ∈ m, c.1 ≠ a) :
    Memory.read (m ++ m') a = Memory.read m' a := by
  induction m with
  | nil => rfl
  | cons c m ih =>
    obtain ⟨k, v⟩ := c
    rw [List.cons_append, Memory.read_cons, if_neg (h (k, v) (by simp)), ih fun c hc => h c (by simp [hc])]

theorem Memory.read_append_left {m m' : Memory} {a : Nat} (h : ∀ c ∈ m', c.1 ≠ a) :
    Memory.read (m ++ m') a = Memory.read m a := by
  induction m with
  | nil => rw [List.nil_append, Memory.read_of_not_listed h]; rfl
  | cons c m ih =>
    obtain ⟨k, v⟩ := c
    rw [List.cons_append, Memory.read_cons, Memory.read_cons, ih]

/-- Keeping the entries whose address satisfies a test keeps what is read where the test holds. -/
theorem Memory.read_filter {m : Memory} {p : Nat → Bool} {a : Nat} (h : p a = true) :
    Memory.read (m.filter fun c => p c.1) a = m.read a := by
  induction m with
  | nil => rfl
  | cons c m ih =>
    obtain ⟨k, v⟩ := c
    by_cases hk : k = a
    · subst hk; rw [List.filter_cons_of_pos (by simpa using h), Memory.read_cons, Memory.read_cons, if_pos rfl, if_pos rfl]
    · by_cases hp : p k
      · rw [List.filter_cons_of_pos (by simpa using hp), Memory.read_cons, Memory.read_cons, ih]
      · rw [List.filter_cons_of_neg (by simpa using hp), Memory.read_cons, if_neg hk, ih]

theorem mem_cellsFrom {a : Nat} {vs : List Byte} {c : Host.Cell} (h : c ∈ cellsFrom a vs) :
    a ≤ c.1 ∧ c.1 < a + vs.length ∧ vs[c.1 - a]? = some c.2 ∧ c.2 ≠ 0#8 := by
  induction vs generalizing a with
  | nil => simp [cellsFrom] at h
  | cons v vs ih =>
    have step : c ∈ cellsFrom (a + 1) vs →
        a ≤ c.1 ∧ c.1 < a + (v :: vs).length ∧ (v :: vs)[c.1 - a]? = some c.2 ∧ c.2 ≠ 0#8 := by
      intro h
      obtain ⟨h1, h2, h3, h4⟩ := ih h
      have e : c.1 - a = (c.1 - (a + 1)) + 1 := by omega
      exact ⟨by omega, by simp only [List.length_cons]; omega, by rw [e, List.getElem?_cons_succ]; exact h3, h4⟩
    by_cases hv : v = 0#8
    · rw [cellsFrom, Memory.unlisted_eq, if_pos hv] at h; exact step h
    · rw [cellsFrom, Memory.unlisted_eq, if_neg hv, List.mem_cons] at h
      rcases h with rfl | h
      · simp [hv]
      · exact step h

theorem read_cellsFrom (a : Nat) (vs : List Byte) (i : Nat) :
    Memory.read (cellsFrom a vs) (a + i) = vs.getD i 0#8 := by
  induction vs generalizing a i with
  | nil => simp [cellsFrom]
  | cons v vs ih =>
    cases i with
    | zero =>
      by_cases hv : v = 0#8
      · subst hv
        rw [cellsFrom, Memory.unlisted_eq, if_pos rfl, Memory.read_of_not_listed]
        · simp
        · intro c hc; have := (mem_cellsFrom hc).1; omega
      · simp [cellsFrom, hv, Memory.read_cons]
    | succ i =>
      have e : a + (i + 1) = a + 1 + i := by omega
      by_cases hv : v = 0#8
      · rw [cellsFrom, Memory.unlisted_eq, if_pos hv, e, ih]; simp
      · rw [cellsFrom, Memory.unlisted_eq, if_neg hv, Memory.read_cons, if_neg (by omega), e, ih]; simp

/-- Reading after a store, inside the stored run. -/
theorem Memory.read_store_in (m : Memory) (a : Nat) (vs : List Byte) (i : Nat) (h : i < vs.length) :
    Memory.read (m.store a vs) (a + i) = vs.getD i 0#8 := by
  rw [Memory.store, Memory.read_append_left, Memory.read_append_right, read_cellsFrom]
  · intro c hc; simp at hc; omega
  · intro c hc; simp at hc; omega

/-- Reading after a store, outside the stored run. -/
theorem Memory.read_store_out (m : Memory) (a : Nat) (vs : List Byte) (x : Nat) (h : x < a ∨ a + vs.length ≤ x) :
    Memory.read (m.store a vs) x = m.read x := by
  rw [Memory.store]
  rcases h with h | h
  · rw [Memory.read_append_left, Memory.read_append_left]
    · exact Memory.read_filter (p := fun k => decide (k < a)) (by simpa using h)
    · intro c hc; have := (mem_cellsFrom hc).1; omega
    · intro c hc; simp at hc; omega
  · rw [Memory.read_append_right]
    · exact Memory.read_filter (p := fun k => decide (a + vs.length ≤ k)) (by simpa using h)
    · intro c hc
      rw [List.mem_append] at hc
      rcases hc with hc | hc
      · simp at hc; omega
      · have := (mem_cellsFrom hc).2.1; omega

/-- Reading after a store, in one equation. -/
theorem Memory.read_store (m : Memory) (a : Nat) (vs : List Byte) (x : Nat) :
    Memory.read (m.store a vs) x = if a ≤ x ∧ x < a + vs.length then vs.getD (x - a) 0#8 else m.read x := by
  split
  · rename_i h
    obtain ⟨i, rfl⟩ := Nat.exists_eq_add_of_le h.1
    rw [Memory.read_store_in _ _ _ _ (by omega), Nat.add_sub_cancel_left]
  · exact Memory.read_store_out _ _ _ _ (by omega)

/-- The entries after a store are old entries outside the run or bytes of the run. -/
theorem Memory.mem_store {m : Memory} {a : Nat} {vs : List Byte} {c : Host.Cell} (h : c ∈ m.store a vs) :
    (c ∈ m ∧ (c.1 < a ∨ a + vs.length ≤ c.1)) ∨ (a ≤ c.1 ∧ c.1 < a + vs.length ∧ vs[c.1 - a]? = some c.2 ∧ c.2 ≠ 0#8) := by
  simp only [Memory.store, List.mem_append, List.mem_filter, decide_eq_true_eq] at h
  rcases h with (⟨h, hl⟩ | h) | ⟨h, hr⟩
  · exact .inl ⟨h, .inl hl⟩
  · exact .inr (mem_cellsFrom h)
  · exact .inl ⟨h, .inr hr⟩

theorem cellsFrom_rising (a : Nat) (vs : List Byte) : (cellsFrom a vs).Pairwise fun x y => x.1 < y.1 := by
  induction vs generalizing a with
  | nil => exact List.Pairwise.nil
  | cons v vs ih =>
    rw [cellsFrom]
    split
    · exact ih _
    · exact List.Pairwise.cons (fun c hc => by have := (mem_cellsFrom hc).1; simp; omega) (ih _)

/-- Every memory operation is `store`, and it keeps the canonical form. -/
theorem Memory.store_keeps_wf {m : Memory} (h : m.wf) (a : Nat) (vs : List Byte) : (m.store a vs).wf := by
  constructor
  · rw [Memory.store, List.pairwise_append, List.pairwise_append]
    refine ⟨⟨h.1.filter _, cellsFrom_rising a vs, ?_⟩, h.1.filter _, ?_⟩
    · intro x hx y hy
      have := (mem_cellsFrom hy).1
      simp at hx; omega
    · intro x hx y hy
      rw [List.mem_append] at hx
      simp at hy
      rcases hx with hx | hx
      · simp at hx; omega
      · have := (mem_cellsFrom hx).2.1; omega
  · intro c hc
    rcases Memory.mem_store hc with ⟨hm, -⟩ | ⟨-, -, -, h0⟩
    · exact h.2 c hm
    · simpa using h0

/-- An entry of a canonical memory is what its address reads as. -/
theorem Memory.read_of_mem {m : Memory} (h : m.wf) {c : Host.Cell} (hc : c ∈ m) : m.read c.1 = c.2 := by
  induction m with
  | nil => simp at hc
  | cons x m ih =>
    obtain ⟨k, v⟩ := x
    have hp := List.pairwise_cons.1 h.1
    rcases List.mem_cons.1 hc with rfl | hm
    · simp [Memory.read_cons]
    · rw [Memory.read_cons, if_neg (by have := hp.1 c hm; simp at this; omega)]
      exact ih ⟨hp.2, fun c hc => h.2 c (by simp [hc])⟩ hm

/-- A canonical memory lists a cell exactly when the cell does not read as unlisted. -/
theorem Memory.mem_iff_read {m : Memory} (h : m.wf) (c : Host.Cell) : c ∈ m ↔ m.read c.1 = c.2 ∧ c.2 ≠ 0#8 := by
  refine ⟨fun hc => ⟨Memory.read_of_mem h hc, by simpa using h.2 c hc⟩, fun ⟨hr, h0⟩ => ?_⟩
  by_contra hn
  have : ∃ d ∈ m, d.1 = c.1 := by
    by_contra hx
    push Not at hx
    exact h0 (by rw [← hr, Memory.read_of_not_listed hx])
  obtain ⟨d, hd, hk⟩ := this
  have : d = c := Prod.ext hk (by rw [← hr, ← hk, Memory.read_of_mem h hd])
  exact hn (this ▸ hd)

/-- Canonical memories that read alike are equal. -/
theorem Memory.ext_of_wf {m m' : Memory} (h : m.wf) (h' : m'.wf) (hr : ∀ a, m.read a = m'.read a) : m = m' := by
  have hnd : ∀ {x : Memory}, x.wf → x.Nodup := fun hx => hx.1.imp fun hlt he => by subst he; omega
  have hp : m.Perm m' := (List.perm_ext_iff_of_nodup (hnd h) (hnd h')).2 fun c => by
    rw [Memory.mem_iff_read h, Memory.mem_iff_read h', hr]
  refine hp.eq_of_pairwise (fun x y _ _ hxy hyx => ?_) h.1 h'.1
  omega

theorem Memory.nil_wf : Memory.wf [] := ⟨List.Pairwise.nil, by simp⟩

end Sys2Proof.Machine
end

