-- ==== Sys2Proof/Laws/State.lean ====
section
/-! SUPPORT. One lemma per field per update of the state, so that no proof unfolds a record update. -/

namespace Sys2Proof.Machine

/-! ### `fillBuffer` -/

@[simp] theorem fillBuffer_cmd (b : Buffer) (vs : List Byte) (s : State) : (fillBuffer b vs s).cmd = s.cmd := rfl
@[simp] theorem fillBuffer_status (b : Buffer) (vs : List Byte) (s : State) :
    (fillBuffer b vs s).status = s.status := rfl
@[simp] theorem fillBuffer_ctrl (b : Buffer) (vs : List Byte) (s : State) : (fillBuffer b vs s).ctrl = s.ctrl := rfl
@[simp] theorem fillBuffer_argv (b : Buffer) (vs : List Byte) (s : State) : (fillBuffer b vs s).argv = s.argv := rfl
@[simp] theorem fillBuffer_chkst (b : Buffer) (vs : List Byte) (s : State) :
    (fillBuffer b vs s).chkst = s.chkst := rfl
@[simp] theorem fillBuffer_chkres (b : Buffer) (vs : List Byte) (s : State) :
    (fillBuffer b vs s).chkres = s.chkres := rfl
@[simp] theorem fillBuffer_alen (b : Buffer) (vs : List Byte) (s : State) : (fillBuffer b vs s).alen = s.alen := rfl
@[simp] theorem fillBuffer_isScript (b : Buffer) (vs : List Byte) (s : State) :
    (fillBuffer b vs s).isScript = s.isScript := rfl
@[simp] theorem fillBuffer_isWitness (b : Buffer) (vs : List Byte) (s : State) :
    (fillBuffer b vs s).isWitness = s.isWitness := rfl
@[simp] theorem fillBuffer_build (b : Buffer) (vs : List Byte) (s : State) :
    (fillBuffer b vs s).build = s.build := rfl
@[simp] theorem fillBuffer_wver (b : Buffer) (vs : List Byte) (s : State) : (fillBuffer b vs s).wver = s.wver := rfl
@[simp] theorem fillBuffer_wop (b : Buffer) (vs : List Byte) (s : State) : (fillBuffer b vs s).wop = s.wop := rfl
@[simp] theorem fillBuffer_d5len (b : Buffer) (vs : List Byte) (s : State) :
    (fillBuffer b vs s).d5len = s.d5len := rfl
@[simp] theorem fillBuffer_plen (b : Buffer) (vs : List Byte) (s : State) : (fillBuffer b vs s).plen = s.plen := rfl
@[simp] theorem fillBuffer_slen (b : Buffer) (vs : List Byte) (s : State) : (fillBuffer b vs s).slen = s.slen := rfl
theorem fillBuffer_mem (b : Buffer) (vs : List Byte) (s : State) :
    (fillBuffer b vs s).mem = s.mem.store b.base (zeroFill (b.capacity s.build) vs) := rfl
@[simp] theorem fillBuffer_bus (b : Buffer) (vs : List Byte) (s : State) : (fillBuffer b vs s).bus = s.bus := rfl
@[simp] theorem fillBuffer_returned (b : Buffer) (vs : List Byte) (s : State) :
    (fillBuffer b vs s).returned = s.returned := rfl

/-! ### `writeCell` -/

@[simp] theorem writeCell_cmd (b : Buffer) (i : Nat) (v : Byte) (s : State) : (writeCell b i v s).cmd = s.cmd := rfl
@[simp] theorem writeCell_status (b : Buffer) (i : Nat) (v : Byte) (s : State) :
    (writeCell b i v s).status = s.status := rfl
@[simp] theorem writeCell_ctrl (b : Buffer) (i : Nat) (v : Byte) (s : State) :
    (writeCell b i v s).ctrl = s.ctrl := rfl
@[simp] theorem writeCell_argv (b : Buffer) (i : Nat) (v : Byte) (s : State) :
    (writeCell b i v s).argv = s.argv := rfl
@[simp] theorem writeCell_chkst (b : Buffer) (i : Nat) (v : Byte) (s : State) :
    (writeCell b i v s).chkst = s.chkst := rfl
@[simp] theorem writeCell_chkres (b : Buffer) (i : Nat) (v : Byte) (s : State) :
    (writeCell b i v s).chkres = s.chkres := rfl
@[simp] theorem writeCell_alen (b : Buffer) (i : Nat) (v : Byte) (s : State) :
    (writeCell b i v s).alen = s.alen := rfl
@[simp] theorem writeCell_isScript (b : Buffer) (i : Nat) (v : Byte) (s : State) :
    (writeCell b i v s).isScript = s.isScript := rfl
@[simp] theorem writeCell_isWitness (b : Buffer) (i : Nat) (v : Byte) (s : State) :
    (writeCell b i v s).isWitness = s.isWitness := rfl
@[simp] theorem writeCell_build (b : Buffer) (i : Nat) (v : Byte) (s : State) :
    (writeCell b i v s).build = s.build := rfl
@[simp] theorem writeCell_wver (b : Buffer) (i : Nat) (v : Byte) (s : State) :
    (writeCell b i v s).wver = s.wver := rfl
@[simp] theorem writeCell_wop (b : Buffer) (i : Nat) (v : Byte) (s : State) : (writeCell b i v s).wop = s.wop := rfl
@[simp] theorem writeCell_d5len (b : Buffer) (i : Nat) (v : Byte) (s : State) :
    (writeCell b i v s).d5len = s.d5len := rfl
@[simp] theorem writeCell_plen (b : Buffer) (i : Nat) (v : Byte) (s : State) :
    (writeCell b i v s).plen = s.plen := rfl
@[simp] theorem writeCell_slen (b : Buffer) (i : Nat) (v : Byte) (s : State) :
    (writeCell b i v s).slen = s.slen := rfl
theorem writeCell_mem (b : Buffer) (i : Nat) (v : Byte) (s : State) :
    (writeCell b i v s).mem = s.mem.store (b.base + i) [if b = .d5 then (v.setWidth 5).setWidth 8 else v] := rfl
@[simp] theorem writeCell_bus (b : Buffer) (i : Nat) (v : Byte) (s : State) : (writeCell b i v s).bus = s.bus := rfl
@[simp] theorem writeCell_returned (b : Buffer) (i : Nat) (v : Byte) (s : State) :
    (writeCell b i v s).returned = s.returned := rfl

/-! ### `setScript` -/

@[simp] theorem setScript_cmd (vs : List Byte) (s : State) : (setScript vs s).cmd = s.cmd := rfl
@[simp] theorem setScript_status (vs : List Byte) (s : State) : (setScript vs s).status = s.status := rfl
@[simp] theorem setScript_ctrl (vs : List Byte) (s : State) : (setScript vs s).ctrl = s.ctrl := rfl
@[simp] theorem setScript_argv (vs : List Byte) (s : State) : (setScript vs s).argv = s.argv := rfl
@[simp] theorem setScript_chkst (vs : List Byte) (s : State) : (setScript vs s).chkst = s.chkst := rfl
@[simp] theorem setScript_chkres (vs : List Byte) (s : State) : (setScript vs s).chkres = s.chkres := rfl
@[simp] theorem setScript_alen (vs : List Byte) (s : State) : (setScript vs s).alen = s.alen := rfl
@[simp] theorem setScript_isScript (vs : List Byte) (s : State) : (setScript vs s).isScript = s.isScript := rfl
@[simp] theorem setScript_isWitness (vs : List Byte) (s : State) : (setScript vs s).isWitness = s.isWitness := rfl
@[simp] theorem setScript_build (vs : List Byte) (s : State) : (setScript vs s).build = s.build := rfl
@[simp] theorem setScript_wver (vs : List Byte) (s : State) : (setScript vs s).wver = s.wver := rfl
@[simp] theorem setScript_wop (vs : List Byte) (s : State) : (setScript vs s).wop = s.wop := rfl
@[simp] theorem setScript_d5len (vs : List Byte) (s : State) : (setScript vs s).d5len = s.d5len := rfl
@[simp] theorem setScript_plen (vs : List Byte) (s : State) : (setScript vs s).plen = s.plen := rfl
@[simp] theorem setScript_slen (vs : List Byte) (s : State) : (setScript vs s).slen = BitVec.ofNat 8 vs.length := rfl
@[simp] theorem setScript_mem (vs : List Byte) (s : State) :
    (setScript vs s).mem = (fillBuffer .script vs s).mem := rfl
@[simp] theorem setScript_bus (vs : List Byte) (s : State) : (setScript vs s).bus = s.bus := rfl
@[simp] theorem setScript_returned (vs : List Byte) (s : State) : (setScript vs s).returned = s.returned := rfl

/-! ### `setPayload` -/

@[simp] theorem setPayload_cmd (vs : List Byte) (s : State) : (setPayload vs s).cmd = s.cmd := rfl
@[simp] theorem setPayload_status (vs : List Byte) (s : State) : (setPayload vs s).status = s.status := rfl
@[simp] theorem setPayload_ctrl (vs : List Byte) (s : State) : (setPayload vs s).ctrl = s.ctrl := rfl
@[simp] theorem setPayload_argv (vs : List Byte) (s : State) : (setPayload vs s).argv = s.argv := rfl
@[simp] theorem setPayload_chkst (vs : List Byte) (s : State) : (setPayload vs s).chkst = s.chkst := rfl
@[simp] theorem setPayload_chkres (vs : List Byte) (s : State) : (setPayload vs s).chkres = s.chkres := rfl
@[simp] theorem setPayload_alen (vs : List Byte) (s : State) : (setPayload vs s).alen = s.alen := rfl
@[simp] theorem setPayload_isScript (vs : List Byte) (s : State) : (setPayload vs s).isScript = s.isScript := rfl
@[simp] theorem setPayload_isWitness (vs : List Byte) (s : State) : (setPayload vs s).isWitness = s.isWitness := rfl
@[simp] theorem setPayload_build (vs : List Byte) (s : State) : (setPayload vs s).build = s.build := rfl
@[simp] theorem setPayload_wver (vs : List Byte) (s : State) : (setPayload vs s).wver = s.wver := rfl
@[simp] theorem setPayload_wop (vs : List Byte) (s : State) : (setPayload vs s).wop = s.wop := rfl
@[simp] theorem setPayload_d5len (vs : List Byte) (s : State) : (setPayload vs s).d5len = s.d5len := rfl
@[simp] theorem setPayload_plen (vs : List Byte) (s : State) : (setPayload vs s).plen = s.plen := rfl
@[simp] theorem setPayload_slen (vs : List Byte) (s : State) : (setPayload vs s).slen = s.slen := rfl
@[simp] theorem setPayload_mem (vs : List Byte) (s : State) :
    (setPayload vs s).mem = (fillBuffer .p58 vs s).mem := rfl
@[simp] theorem setPayload_bus (vs : List Byte) (s : State) : (setPayload vs s).bus = s.bus := rfl
@[simp] theorem setPayload_returned (vs : List Byte) (s : State) : (setPayload vs s).returned = s.returned := rfl

/-! ### `setProgram` -/

@[simp] theorem setProgram_cmd (vs : List Byte) (s : State) : (setProgram vs s).cmd = s.cmd := rfl
@[simp] theorem setProgram_status (vs : List Byte) (s : State) : (setProgram vs s).status = s.status := rfl
@[simp] theorem setProgram_ctrl (vs : List Byte) (s : State) : (setProgram vs s).ctrl = s.ctrl := rfl
@[simp] theorem setProgram_argv (vs : List Byte) (s : State) : (setProgram vs s).argv = s.argv := rfl
@[simp] theorem setProgram_chkst (vs : List Byte) (s : State) : (setProgram vs s).chkst = s.chkst := rfl
@[simp] theorem setProgram_chkres (vs : List Byte) (s : State) : (setProgram vs s).chkres = s.chkres := rfl
@[simp] theorem setProgram_alen (vs : List Byte) (s : State) : (setProgram vs s).alen = s.alen := rfl
@[simp] theorem setProgram_isScript (vs : List Byte) (s : State) : (setProgram vs s).isScript = s.isScript := rfl
@[simp] theorem setProgram_isWitness (vs : List Byte) (s : State) : (setProgram vs s).isWitness = s.isWitness := rfl
@[simp] theorem setProgram_build (vs : List Byte) (s : State) : (setProgram vs s).build = s.build := rfl
@[simp] theorem setProgram_wver (vs : List Byte) (s : State) : (setProgram vs s).wver = s.wver := rfl
@[simp] theorem setProgram_wop (vs : List Byte) (s : State) : (setProgram vs s).wop = s.wop := rfl
@[simp] theorem setProgram_d5len (vs : List Byte) (s : State) : (setProgram vs s).d5len = s.d5len := rfl
@[simp] theorem setProgram_plen (vs : List Byte) (s : State) :
    (setProgram vs s).plen = BitVec.ofNat 8 vs.length := rfl
@[simp] theorem setProgram_slen (vs : List Byte) (s : State) : (setProgram vs s).slen = s.slen := rfl
@[simp] theorem setProgram_mem (vs : List Byte) (s : State) :
    (setProgram vs s).mem = (fillBuffer .prog vs s).mem := rfl
@[simp] theorem setProgram_bus (vs : List Byte) (s : State) : (setProgram vs s).bus = s.bus := rfl
@[simp] theorem setProgram_returned (vs : List Byte) (s : State) : (setProgram vs s).returned = s.returned := rfl

/-! ### `setD5` -/

@[simp] theorem setD5_cmd (vs : List Quint) (s : State) : (setD5 vs s).cmd = s.cmd := rfl
@[simp] theorem setD5_status (vs : List Quint) (s : State) : (setD5 vs s).status = s.status := rfl
@[simp] theorem setD5_ctrl (vs : List Quint) (s : State) : (setD5 vs s).ctrl = s.ctrl := rfl
@[simp] theorem setD5_argv (vs : List Quint) (s : State) : (setD5 vs s).argv = s.argv := rfl
@[simp] theorem setD5_chkst (vs : List Quint) (s : State) : (setD5 vs s).chkst = s.chkst := rfl
@[simp] theorem setD5_chkres (vs : List Quint) (s : State) : (setD5 vs s).chkres = s.chkres := rfl
@[simp] theorem setD5_alen (vs : List Quint) (s : State) : (setD5 vs s).alen = s.alen := rfl
@[simp] theorem setD5_isScript (vs : List Quint) (s : State) : (setD5 vs s).isScript = s.isScript := rfl
@[simp] theorem setD5_isWitness (vs : List Quint) (s : State) : (setD5 vs s).isWitness = s.isWitness := rfl
@[simp] theorem setD5_build (vs : List Quint) (s : State) : (setD5 vs s).build = s.build := rfl
@[simp] theorem setD5_wver (vs : List Quint) (s : State) : (setD5 vs s).wver = s.wver := rfl
@[simp] theorem setD5_wop (vs : List Quint) (s : State) : (setD5 vs s).wop = s.wop := rfl
@[simp] theorem setD5_d5len (vs : List Quint) (s : State) : (setD5 vs s).d5len = BitVec.ofNat 8 vs.length := rfl
@[simp] theorem setD5_plen (vs : List Quint) (s : State) : (setD5 vs s).plen = s.plen := rfl
@[simp] theorem setD5_slen (vs : List Quint) (s : State) : (setD5 vs s).slen = s.slen := rfl
@[simp] theorem setD5_mem (vs : List Quint) (s : State) :
    (setD5 vs s).mem = (fillBuffer .d5 (vs.map (·.setWidth 8)) s).mem := rfl
@[simp] theorem setD5_bus (vs : List Quint) (s : State) : (setD5 vs s).bus = s.bus := rfl
@[simp] theorem setD5_returned (vs : List Quint) (s : State) : (setD5 vs s).returned = s.returned := rfl

/-! ### `setWitness` -/

@[simp] theorem setWitness_cmd (wv wo : Byte) (ds : List Quint) (ps : List Byte) (s : State) :
    (setWitness wv wo ds ps s).cmd = s.cmd := rfl
@[simp] theorem setWitness_status (wv wo : Byte) (ds : List Quint) (ps : List Byte) (s : State) :
    (setWitness wv wo ds ps s).status = s.status := rfl
@[simp] theorem setWitness_ctrl (wv wo : Byte) (ds : List Quint) (ps : List Byte) (s : State) :
    (setWitness wv wo ds ps s).ctrl = s.ctrl := rfl
@[simp] theorem setWitness_argv (wv wo : Byte) (ds : List Quint) (ps : List Byte) (s : State) :
    (setWitness wv wo ds ps s).argv = s.argv := rfl
@[simp] theorem setWitness_chkst (wv wo : Byte) (ds : List Quint) (ps : List Byte) (s : State) :
    (setWitness wv wo ds ps s).chkst = s.chkst := rfl
@[simp] theorem setWitness_chkres (wv wo : Byte) (ds : List Quint) (ps : List Byte) (s : State) :
    (setWitness wv wo ds ps s).chkres = s.chkres := rfl
@[simp] theorem setWitness_alen (wv wo : Byte) (ds : List Quint) (ps : List Byte) (s : State) :
    (setWitness wv wo ds ps s).alen = s.alen := rfl
@[simp] theorem setWitness_isScript (wv wo : Byte) (ds : List Quint) (ps : List Byte) (s : State) :
    (setWitness wv wo ds ps s).isScript = s.isScript := rfl
@[simp] theorem setWitness_isWitness (wv wo : Byte) (ds : List Quint) (ps : List Byte) (s : State) :
    (setWitness wv wo ds ps s).isWitness = s.isWitness := rfl
@[simp] theorem setWitness_build (wv wo : Byte) (ds : List Quint) (ps : List Byte) (s : State) :
    (setWitness wv wo ds ps s).build = s.build := rfl
@[simp] theorem setWitness_wver (wv wo : Byte) (ds : List Quint) (ps : List Byte) (s : State) :
    (setWitness wv wo ds ps s).wver = wv := rfl
@[simp] theorem setWitness_wop (wv wo : Byte) (ds : List Quint) (ps : List Byte) (s : State) :
    (setWitness wv wo ds ps s).wop = wo := rfl
@[simp] theorem setWitness_d5len (wv wo : Byte) (ds : List Quint) (ps : List Byte) (s : State) :
    (setWitness wv wo ds ps s).d5len = BitVec.ofNat 8 ds.length := rfl
@[simp] theorem setWitness_plen (wv wo : Byte) (ds : List Quint) (ps : List Byte) (s : State) :
    (setWitness wv wo ds ps s).plen = BitVec.ofNat 8 ps.length := rfl
@[simp] theorem setWitness_slen (wv wo : Byte) (ds : List Quint) (ps : List Byte) (s : State) :
    (setWitness wv wo ds ps s).slen = s.slen := rfl
@[simp] theorem setWitness_mem (wv wo : Byte) (ds : List Quint) (ps : List Byte) (s : State) :
    (setWitness wv wo ds ps s).mem = (fillBuffer .prog ps (fillBuffer .d5 (ds.map (·.setWidth 8)) s)).mem := rfl
@[simp] theorem setWitness_bus (wv wo : Byte) (ds : List Quint) (ps : List Byte) (s : State) :
    (setWitness wv wo ds ps s).bus = s.bus := rfl
@[simp] theorem setWitness_returned (wv wo : Byte) (ds : List Quint) (ps : List Byte) (s : State) :
    (setWitness wv wo ds ps s).returned = s.returned := rfl

/-! ### `setCheck` -/

@[simp] theorem setCheck_cmd (c : Byte) (r : Residue) (s : State) : (setCheck c r s).cmd = s.cmd := rfl
@[simp] theorem setCheck_status (c : Byte) (r : Residue) (s : State) : (setCheck c r s).status = s.status := rfl
@[simp] theorem setCheck_ctrl (c : Byte) (r : Residue) (s : State) : (setCheck c r s).ctrl = s.ctrl := rfl
@[simp] theorem setCheck_argv (c : Byte) (r : Residue) (s : State) : (setCheck c r s).argv = s.argv := rfl
@[simp] theorem setCheck_chkst (c : Byte) (r : Residue) (s : State) : (setCheck c r s).chkst = c := rfl
@[simp] theorem setCheck_chkres (c : Byte) (r : Residue) (s : State) : (setCheck c r s).chkres = r := rfl
@[simp] theorem setCheck_alen (c : Byte) (r : Residue) (s : State) : (setCheck c r s).alen = s.alen := rfl
@[simp] theorem setCheck_isScript (c : Byte) (r : Residue) (s : State) : (setCheck c r s).isScript = s.isScript := rfl
@[simp] theorem setCheck_isWitness (c : Byte) (r : Residue) (s : State) :
    (setCheck c r s).isWitness = s.isWitness := rfl
@[simp] theorem setCheck_build (c : Byte) (r : Residue) (s : State) : (setCheck c r s).build = s.build := rfl
@[simp] theorem setCheck_wver (c : Byte) (r : Residue) (s : State) : (setCheck c r s).wver = s.wver := rfl
@[simp] theorem setCheck_wop (c : Byte) (r : Residue) (s : State) : (setCheck c r s).wop = s.wop := rfl
@[simp] theorem setCheck_d5len (c : Byte) (r : Residue) (s : State) : (setCheck c r s).d5len = s.d5len := rfl
@[simp] theorem setCheck_plen (c : Byte) (r : Residue) (s : State) : (setCheck c r s).plen = s.plen := rfl
@[simp] theorem setCheck_slen (c : Byte) (r : Residue) (s : State) : (setCheck c r s).slen = s.slen := rfl
@[simp] theorem setCheck_mem (c : Byte) (r : Residue) (s : State) : (setCheck c r s).mem = s.mem := rfl
@[simp] theorem setCheck_bus (c : Byte) (r : Residue) (s : State) : (setCheck c r s).bus = s.bus := rfl
@[simp] theorem setCheck_returned (c : Byte) (r : Residue) (s : State) : (setCheck c r s).returned = s.returned := rfl

/-! ### `clearArgv` -/

@[simp] theorem clearArgv_cmd (s : State) : (clearArgv s).cmd = s.cmd := rfl
@[simp] theorem clearArgv_status (s : State) : (clearArgv s).status = s.status := rfl
@[simp] theorem clearArgv_ctrl (s : State) : (clearArgv s).ctrl = s.ctrl := rfl
@[simp] theorem clearArgv_argv (s : State) : (clearArgv s).argv = 0#8 := rfl
@[simp] theorem clearArgv_chkst (s : State) : (clearArgv s).chkst = s.chkst := rfl
@[simp] theorem clearArgv_chkres (s : State) : (clearArgv s).chkres = s.chkres := rfl
@[simp] theorem clearArgv_alen (s : State) : (clearArgv s).alen = s.alen := rfl
@[simp] theorem clearArgv_isScript (s : State) : (clearArgv s).isScript = s.isScript := rfl
@[simp] theorem clearArgv_isWitness (s : State) : (clearArgv s).isWitness = s.isWitness := rfl
@[simp] theorem clearArgv_build (s : State) : (clearArgv s).build = s.build := rfl
@[simp] theorem clearArgv_wver (s : State) : (clearArgv s).wver = s.wver := rfl
@[simp] theorem clearArgv_wop (s : State) : (clearArgv s).wop = s.wop := rfl
@[simp] theorem clearArgv_d5len (s : State) : (clearArgv s).d5len = s.d5len := rfl
@[simp] theorem clearArgv_plen (s : State) : (clearArgv s).plen = s.plen := rfl
@[simp] theorem clearArgv_slen (s : State) : (clearArgv s).slen = s.slen := rfl
@[simp] theorem clearArgv_mem (s : State) : (clearArgv s).mem = s.mem := rfl
@[simp] theorem clearArgv_bus (s : State) : (clearArgv s).bus = s.bus := rfl
@[simp] theorem clearArgv_returned (s : State) : (clearArgv s).returned = s.returned := rfl

/-! ### `setOutcome` -/

@[simp] theorem setOutcome_cmd (e : Err) (s : State) : (setOutcome e s).cmd = s.cmd := rfl
@[simp] theorem setOutcome_status (e : Err) (s : State) : (setOutcome e s).status = statusWord true e := rfl
@[simp] theorem setOutcome_ctrl (e : Err) (s : State) : (setOutcome e s).ctrl = s.ctrl := rfl
@[simp] theorem setOutcome_argv (e : Err) (s : State) : (setOutcome e s).argv = s.argv := rfl
@[simp] theorem setOutcome_chkst (e : Err) (s : State) : (setOutcome e s).chkst = s.chkst := rfl
@[simp] theorem setOutcome_chkres (e : Err) (s : State) : (setOutcome e s).chkres = s.chkres := rfl
@[simp] theorem setOutcome_alen (e : Err) (s : State) : (setOutcome e s).alen = s.alen := rfl
@[simp] theorem setOutcome_isScript (e : Err) (s : State) : (setOutcome e s).isScript = s.isScript := rfl
@[simp] theorem setOutcome_isWitness (e : Err) (s : State) : (setOutcome e s).isWitness = s.isWitness := rfl
@[simp] theorem setOutcome_build (e : Err) (s : State) : (setOutcome e s).build = s.build := rfl
@[simp] theorem setOutcome_wver (e : Err) (s : State) : (setOutcome e s).wver = s.wver := rfl
@[simp] theorem setOutcome_wop (e : Err) (s : State) : (setOutcome e s).wop = s.wop := rfl
@[simp] theorem setOutcome_d5len (e : Err) (s : State) : (setOutcome e s).d5len = s.d5len := rfl
@[simp] theorem setOutcome_plen (e : Err) (s : State) : (setOutcome e s).plen = s.plen := rfl
@[simp] theorem setOutcome_slen (e : Err) (s : State) : (setOutcome e s).slen = s.slen := rfl
@[simp] theorem setOutcome_mem (e : Err) (s : State) : (setOutcome e s).mem = s.mem := rfl
@[simp] theorem setOutcome_bus (e : Err) (s : State) : (setOutcome e s).bus = s.bus := rfl
@[simp] theorem setOutcome_returned (e : Err) (s : State) : (setOutcome e s).returned = s.returned := rfl

/-! ### `returnByte` -/

@[simp] theorem returnByte_cmd (v : Byte) (s : State) : (returnByte v s).cmd = s.cmd := rfl
@[simp] theorem returnByte_status (v : Byte) (s : State) : (returnByte v s).status = s.status := rfl
@[simp] theorem returnByte_ctrl (v : Byte) (s : State) : (returnByte v s).ctrl = s.ctrl := rfl
@[simp] theorem returnByte_argv (v : Byte) (s : State) : (returnByte v s).argv = s.argv := rfl
@[simp] theorem returnByte_chkst (v : Byte) (s : State) : (returnByte v s).chkst = s.chkst := rfl
@[simp] theorem returnByte_chkres (v : Byte) (s : State) : (returnByte v s).chkres = s.chkres := rfl
@[simp] theorem returnByte_alen (v : Byte) (s : State) : (returnByte v s).alen = s.alen := rfl
@[simp] theorem returnByte_isScript (v : Byte) (s : State) : (returnByte v s).isScript = s.isScript := rfl
@[simp] theorem returnByte_isWitness (v : Byte) (s : State) : (returnByte v s).isWitness = s.isWitness := rfl
@[simp] theorem returnByte_build (v : Byte) (s : State) : (returnByte v s).build = s.build := rfl
@[simp] theorem returnByte_wver (v : Byte) (s : State) : (returnByte v s).wver = s.wver := rfl
@[simp] theorem returnByte_wop (v : Byte) (s : State) : (returnByte v s).wop = s.wop := rfl
@[simp] theorem returnByte_d5len (v : Byte) (s : State) : (returnByte v s).d5len = s.d5len := rfl
@[simp] theorem returnByte_plen (v : Byte) (s : State) : (returnByte v s).plen = s.plen := rfl
@[simp] theorem returnByte_slen (v : Byte) (s : State) : (returnByte v s).slen = s.slen := rfl
@[simp] theorem returnByte_mem (v : Byte) (s : State) : (returnByte v s).mem = s.mem := rfl
@[simp] theorem returnByte_bus (v : Byte) (s : State) : (returnByte v s).bus = s.bus := rfl
@[simp] theorem returnByte_returned (v : Byte) (s : State) : (returnByte v s).returned = s.returned ++ [v] := rfl

/-! ### `resetBlock` -/

@[simp] theorem resetBlock_cmd (s : State) : (resetBlock s).cmd = 0#8 := rfl
@[simp] theorem resetBlock_status (s : State) : (resetBlock s).status = 0#8 := rfl
@[simp] theorem resetBlock_ctrl (s : State) : (resetBlock s).ctrl = 0#8 := rfl
@[simp] theorem resetBlock_argv (s : State) : (resetBlock s).argv = 0#8 := rfl
@[simp] theorem resetBlock_chkst (s : State) : (resetBlock s).chkst = 0#8 := rfl
@[simp] theorem resetBlock_chkres (s : State) : (resetBlock s).chkres = 0#30 := rfl
@[simp] theorem resetBlock_alen (s : State) : (resetBlock s).alen = 0#8 := rfl
@[simp] theorem resetBlock_isScript (s : State) : (resetBlock s).isScript = 0#8 := rfl
@[simp] theorem resetBlock_isWitness (s : State) : (resetBlock s).isWitness = 0#8 := rfl
@[simp] theorem resetBlock_build (s : State) : (resetBlock s).build = s.build := rfl
@[simp] theorem resetBlock_wver (s : State) : (resetBlock s).wver = 0#8 := rfl
@[simp] theorem resetBlock_wop (s : State) : (resetBlock s).wop = 0#8 := rfl
@[simp] theorem resetBlock_d5len (s : State) : (resetBlock s).d5len = 0#8 := rfl
@[simp] theorem resetBlock_plen (s : State) : (resetBlock s).plen = 0#8 := rfl
@[simp] theorem resetBlock_slen (s : State) : (resetBlock s).slen = 0#8 := rfl
@[simp] theorem resetBlock_mem (s : State) : (resetBlock s).mem = [] := rfl
@[simp] theorem resetBlock_bus (s : State) : (resetBlock s).bus = s.bus := rfl
@[simp] theorem resetBlock_returned (s : State) : (resetBlock s).returned = s.returned := rfl

/-! ### `State.reset` -/

@[simp] theorem reset_cmd : State.reset.cmd = 0#8 := rfl
@[simp] theorem reset_status : State.reset.status = 0#8 := rfl
@[simp] theorem reset_ctrl : State.reset.ctrl = 0#8 := rfl
@[simp] theorem reset_argv : State.reset.argv = 0#8 := rfl
@[simp] theorem reset_chkst : State.reset.chkst = 0#8 := rfl
@[simp] theorem reset_chkres : State.reset.chkres = 0#30 := rfl
@[simp] theorem reset_alen : State.reset.alen = 0#8 := rfl
@[simp] theorem reset_isScript : State.reset.isScript = 0#8 := rfl
@[simp] theorem reset_isWitness : State.reset.isWitness = 0#8 := rfl
@[simp] theorem reset_build : State.reset.build = Build.spec := rfl
@[simp] theorem reset_wver : State.reset.wver = 0#8 := rfl
@[simp] theorem reset_wop : State.reset.wop = 0#8 := rfl
@[simp] theorem reset_d5len : State.reset.d5len = 0#8 := rfl
@[simp] theorem reset_plen : State.reset.plen = 0#8 := rfl
@[simp] theorem reset_slen : State.reset.slen = 0#8 := rfl
@[simp] theorem reset_mem : State.reset.mem = [] := rfl
@[simp] theorem reset_bus : State.reset.bus = [] := rfl
@[simp] theorem reset_returned : State.reset.returned = [] := rfl

end Sys2Proof.Machine
end

