-- ==== Sys2Proof/Laws/Ops.lean ====
section
/-! SUPPORT. Laws of the shared operations: what a buffer holds after it is written, that no other cell changes, and
that the five buffers do not overlap. -/

namespace Sys2Proof.Machine

/-! ## Sizes -/

/-- The sizes of a build, in terms of AMAX (spec/00_scope.md R5). -/
theorem build_sizes (c : Build) :
    c.AMAX ≤ 255 ∧ c.DMAX = c.AMAX - 8 ∧ c.PMAX = 5 * c.DMAX / 8 ∧ c.SMAX = c.PMAX + 2 :=
  ⟨by have := c.amax.isLt; rw [Build.AMAX]; omega, rfl, rfl, rfl⟩

@[simp] theorem P58LEN_eq : Config.P58LEN = 25 := rfl

/-! ## The five buffers -/

@[simp] theorem capacity_p58 (c : Build) : Buffer.p58.capacity c = 25 := rfl
@[simp] theorem capacity_script (c : Build) : Buffer.script.capacity c = c.SMAX := rfl
@[simp] theorem capacity_prog (c : Build) : Buffer.prog.capacity c = c.PMAX := rfl
@[simp] theorem capacity_abuf (c : Build) : Buffer.abuf.capacity c = c.AMAX := rfl
@[simp] theorem capacity_d5 (c : Build) : Buffer.d5.capacity c = c.DMAX := rfl

/-- No buffer of any build has more than 255 cells. -/
theorem capacity_le (c : Build) (b : Buffer) : b.capacity c ≤ 255 := by
  have := build_sizes c
  cases b <;> simp <;> omega

@[simp] theorem base_p58 : Buffer.p58.base = 0x000 := rfl
@[simp] theorem base_script : Buffer.script.base = 0x100 := rfl
@[simp] theorem base_prog : Buffer.prog.base = 0x200 := rfl
@[simp] theorem base_abuf : Buffer.abuf.base = 0x300 := rfl
@[simp] theorem base_d5 : Buffer.d5.base = 0x400 := rfl

theorem holds_iff (c : Build) (b : Buffer) (n : Nat) :
    b.holds c n = true ↔ b.base ≤ n ∧ n < b.base + b.capacity c := by simp [Buffer.holds]

/-- Cells of two different buffers have different addresses. -/
theorem base_add_ne {c : Build} {b b' : Buffer} {i j : Nat} (hb : b ≠ b') (hi : i < b.capacity c)
    (hj : j < b'.capacity c) : b.base + i ≠ b'.base + j := by
  have := capacity_le c b
  have := capacity_le c b'
  cases b <;> cases b' <;> simp at hb ⊢ <;> omega

/-- An address lies in at most one buffer. -/
theorem holds_unique {c : Build} {b b' : Buffer} {n : Nat} (h : b.holds c n = true) (h' : b'.holds c n = true) :
    b = b' := by
  rw [holds_iff] at h h'
  by_contra hb
  exact base_add_ne (c := c) hb (i := n - b.base) (j := n - b'.base) (by omega) (by omega) (by omega)

/-- `bufferAt` names the buffer an address lies in. -/
theorem bufferAt_eq_some {c : Build} {n : Nat} {b : Buffer} : bufferAt c n = some b ↔ b.holds c n = true := by
  refine ⟨fun h => by simpa using List.find?_some h, fun h => ?_⟩
  cases hn : bufferAt c n with
  | none =>
    have := List.find?_eq_none.1 hn b (by cases b <;> simp)
    exact absurd h (by simpa using this)
  | some b' => exact congrArg some (holds_unique (by simpa using List.find?_some hn) h)

theorem bufferAt_cell {c : Build} {b : Buffer} {i : Nat} (h : i < b.capacity c) : bufferAt c (b.base + i) = some b :=
  bufferAt_eq_some.2 ((holds_iff _ _ _).2 ⟨by omega, by omega⟩)

/-! ## Zero fill -/

@[simp] theorem zeroFill_length (n : Nat) (vs : List Byte) : (zeroFill n vs).length = n := by
  simp [zeroFill]

theorem zeroFill_getD (n : Nat) (vs : List Byte) (i : Nat) (h : i < n) : (zeroFill n vs).getD i 0#8 = vs.getD i 0#8 := by
  simp only [zeroFill, List.getD_eq_getElem?_getD, List.getElem?_take, if_pos h]
  by_cases hi : i < vs.length
  · rw [List.getElem?_append_left hi]
  · rw [List.getElem?_append_right (by omega), List.getElem?_replicate, List.getElem?_eq_none (l := vs) (by omega)]
    split <;> simp

/-- A list that has the length already is not changed. -/
theorem zeroFill_of_length {n : Nat} {vs : List Byte} (h : vs.length = n) : zeroFill n vs = vs := by
  subst h; simp [zeroFill]

theorem zeroFill_nil (n : Nat) : zeroFill n [] = List.replicate n 0#8 := by simp [zeroFill]

/-! ## Cells -/

/-- A written buffer holds the given cells from cell 0 on, and zero above them. -/
theorem readCell_fillBuffer (b : Buffer) (vs : List Byte) (s : State) (i : Nat) (h : i < b.capacity s.build) :
    readCell (fillBuffer b vs s) b i = vs.getD i 0#8 := by
  rw [readCell, fillBuffer_mem]
  rw [Memory.read_store_in _ _ _ _ (by simpa using h), zeroFill_getD _ _ _ h]

/-- Writing a buffer changes no address outside it. -/
theorem read_fillBuffer (b : Buffer) (vs : List Byte) (s : State) (a : Nat) (h : b.holds s.build a = false) :
    (fillBuffer b vs s).mem.read a = s.mem.read a := by
  rw [fillBuffer_mem, Memory.read_store_out]
  rw [← Bool.not_eq_true, holds_iff] at h
  simp only [zeroFill_length]; omega

/-- Writing a buffer changes no cell of another buffer. -/
theorem readCell_fillBuffer_ne {b b' : Buffer} (hb : b' ≠ b) (vs : List Byte) (s : State) (i : Nat)
    (h : i < b'.capacity s.build) : readCell (fillBuffer b vs s) b' i = readCell s b' i := by
  refine read_fillBuffer b vs s _ ?_
  rw [← Bool.not_eq_true, holds_iff]
  rintro ⟨h1, h2⟩
  obtain ⟨j, hj⟩ := Nat.exists_eq_add_of_le h1
  exact base_add_ne hb h (by omega : j < b.capacity s.build) hj

/-- Only the memory decides what a cell reads as. -/
theorem readCell_congr {s t : State} (h : t.mem = s.mem) (b : Buffer) (i : Nat) : readCell t b i = readCell s b i := by
  rw [readCell, readCell, h]

/-- Writing one cell of a buffer: that cell. -/
theorem readCell_writeCell (b : Buffer) (i : Nat) (v : Byte) (s : State) :
    readCell (writeCell b i v s) b i = if b = .d5 then (v.setWidth 5).setWidth 8 else v := by
  rw [readCell, writeCell_mem]
  have := Memory.read_store_in s.mem (b.base + i) [if b = .d5 then (v.setWidth 5).setWidth 8 else v] 0 (by simp)
  simpa using this

/-- Writing one cell of a buffer: every other address. -/
theorem read_writeCell_ne (b : Buffer) (i : Nat) (v : Byte) (s : State) (a : Nat) (h : a ≠ b.base + i) :
    (writeCell b i v s).mem.read a = s.mem.read a := by
  rw [writeCell_mem, Memory.read_store_out]
  simp only [List.length_singleton]; omega

/-! ### Cells after the operations on the state -/

@[simp] theorem readCell_setOutcome (e : Err) (s : State) (b : Buffer) (i : Nat) :
    readCell (setOutcome e s) b i = readCell s b i := rfl
@[simp] theorem readCell_clearArgv (s : State) (b : Buffer) (i : Nat) :
    readCell (clearArgv s) b i = readCell s b i := rfl
@[simp] theorem readCell_setCheck (c : Byte) (r : Residue) (s : State) (b : Buffer) (i : Nat) :
    readCell (setCheck c r s) b i = readCell s b i := rfl
@[simp] theorem readCell_setScript (vs : List Byte) (s : State) (b : Buffer) (i : Nat) :
    readCell (setScript vs s) b i = readCell (fillBuffer .script vs s) b i := rfl
@[simp] theorem readCell_setPayload (vs : List Byte) (s : State) (b : Buffer) (i : Nat) :
    readCell (setPayload vs s) b i = readCell (fillBuffer .p58 vs s) b i := rfl
@[simp] theorem readCell_setProgram (vs : List Byte) (s : State) (b : Buffer) (i : Nat) :
    readCell (setProgram vs s) b i = readCell (fillBuffer .prog vs s) b i := rfl
@[simp] theorem readCell_setWitness (wv wo : Byte) (ds : List Quint) (ps : List Byte) (s : State) (b : Buffer)
    (i : Nat) : readCell (setWitness wv wo ds ps s) b i =
      readCell (fillBuffer .prog ps (fillBuffer .d5 (ds.map (·.setWidth 8)) s)) b i := rfl

/-! ## Ranges of cells -/

@[simp] theorem cellRange_length (s : State) (b : Buffer) (lo hi : Nat) :
    (cellRange s b lo hi).length = min hi (b.capacity s.build) - lo := by simp [cellRange]

theorem cellRange_getElem? (s : State) (b : Buffer) (lo hi i : Nat) (h : i < min hi (b.capacity s.build) - lo) :
    (cellRange s b lo hi)[i]? = some (readCell s b (lo + i)) := by
  rw [cellRange, List.getElem?_map, List.getElem?_range' (by omega)]
  simp

theorem cellRange_getD (s : State) (b : Buffer) (lo hi i : Nat) (h : i < min hi (b.capacity s.build) - lo) :
    (cellRange s b lo hi).getD i 0#8 = readCell s b (lo + i) := by
  rw [List.getD_eq_getElem?_getD, cellRange_getElem? _ _ _ _ _ h]; rfl

/-- A range of cells is the same in two states whose buffer has the same cells. -/
theorem cellRange_congr {s t : State} {b : Buffer} (hb : t.build = s.build)
    (h : ∀ i < b.capacity s.build, readCell t b i = readCell s b i) (lo hi : Nat) :
    cellRange t b lo hi = cellRange s b lo hi := by
  rw [cellRange, cellRange, hb]
  refine List.map_congr_left fun i hi' => h i ?_
  rw [List.mem_range'_1] at hi'
  omega

theorem inputString_length_le (s : State) : (inputString s).length ≤ s.build.AMAX := by simp [inputString]

theorem hash20_length (s : State) : (hash20 s).length = 20 := by simp [hash20]

theorem d5Values_length (s : State) : (d5Values s).length = min s.d5len.toNat s.build.DMAX := by simp [d5Values]

theorem programBytes_length (s : State) : (programBytes s).length = min s.plen.toNat s.build.PMAX := by
  simp [programBytes]

/-- The operands of a command depend on the buffer they are read from and its length register alone. -/
theorem inputString_congr {s t : State} (hb : t.build = s.build)
    (h : ∀ i < s.build.AMAX, readCell t .abuf i = readCell s .abuf i)
    (hl : t.alen = s.alen) : inputString t = inputString s := by
  rw [inputString, inputString, hl, cellRange_congr (b := .abuf) hb h]

theorem hash20_congr {s t : State} (hb : t.build = s.build) (h : ∀ i < 25, readCell t .p58 i = readCell s .p58 i) :
    hash20 t = hash20 s :=
  cellRange_congr (b := .p58) hb h _ _

theorem d5Values_congr {s t : State} (hb : t.build = s.build)
    (h : ∀ i < s.build.DMAX, readCell t .d5 i = readCell s .d5 i) (hl : t.d5len = s.d5len) :
    d5Values t = d5Values s := by
  rw [d5Values, d5Values, hl, cellRange_congr (b := .d5) hb h]

theorem programBytes_congr {s t : State} (hb : t.build = s.build)
    (h : ∀ i < s.build.PMAX, readCell t .prog i = readCell s .prog i)
    (hl : t.plen = s.plen) : programBytes t = programBytes s := by
  rw [programBytes, programBytes, hl, cellRange_congr (b := .prog) hb h]

/-- The hash of a payload just written: its bytes 1 to 20 (R38). -/
theorem hash20_setPayload {p : List Byte} (hp : p.length = 25) (s : State) :
    hash20 (setPayload p s) = (p.drop 1).take 20 := by
  apply List.ext_getElem?
  intro i
  by_cases hi : i < 20
  · rw [hash20, cellRange_getElem? _ _ _ _ _ (by simp; omega), readCell_setPayload,
      readCell_fillBuffer _ _ _ _ (by simp; omega), List.getElem?_take, if_pos hi, List.getElem?_drop,
      List.getD_eq_getElem?_getD, List.getElem?_eq_getElem (by omega)]
    rfl
  · rw [List.getElem?_eq_none (by rw [hash20_length]; omega), List.getElem?_eq_none (by simp; omega)]

/-- The program of result registers just written (R40). -/
theorem programBytes_setWitness (wv wo : Byte) (ds : List Quint) {ps : List Byte} {s : State}
    (hp : ps.length ≤ s.build.PMAX) :
    programBytes (setWitness wv wo ds ps s) = ps := by
  have := build_sizes s.build
  have hl : (setWitness wv wo ds ps s).plen.toNat = ps.length := by simp; omega
  apply List.ext_getElem?
  intro i
  by_cases hi : i < ps.length
  · rw [programBytes, hl, cellRange_getElem? _ _ _ _ _ (by simp; omega), readCell_setWitness,
      readCell_fillBuffer _ _ _ _ (by simp; omega), Nat.zero_add, List.getD_eq_getElem?_getD,
      List.getElem?_eq_getElem hi]
    rfl
  · rw [List.getElem?_eq_none (by rw [programBytes_length, hl]; omega), List.getElem?_eq_none (by omega)]

/-! ## STATUS and CHKST words -/

@[simp] theorem statusWord_ok : statusWord true .ok = 0x04 := rfl
@[simp] theorem statusWord_missingArg : statusWord true .missingArg = 0x05 := rfl
@[simp] theorem statusWord_invalidAddress : statusWord true .invalidAddress = 0x06 := rfl
@[simp] theorem statusWord_illegalCmd : statusWord true .illegalCmd = 0x07 := rfl

/-! ## Canonical form -/

theorem fillBuffer_keeps_wf {s : State} (h : s.mem.wf) (b : Buffer) (vs : List Byte) : (fillBuffer b vs s).mem.wf :=
  Memory.store_keeps_wf h _ _

theorem writeCell_keeps_wf {s : State} (h : s.mem.wf) (b : Buffer) (i : Nat) (v : Byte) : (writeCell b i v s).mem.wf :=
  Memory.store_keeps_wf h _ _

theorem reset_mem_wf : State.reset.mem.wf := Memory.nil_wf

end Sys2Proof.Machine
end

