-- ==== Sys2Proof/Laws/Units.lean ====
section
/-! SUPPORT. Laws of the units: the lengths of what they produce, and what running a decoder on the state can do. -/

namespace Sys2Proof.Machine

/-! ## What stays the same -/

theorem sameExceptIn_of_mem {bs : List Buffer} {s t : State} (h : t.mem = s.mem) : sameExceptIn bs s t :=
  fun _ _ => by rw [h]

theorem sameExceptIn_fillBuffer {bs : List Buffer} {b : Buffer} (hb : b ∈ bs) (vs : List Byte) (s : State) :
    sameExceptIn bs s (fillBuffer b vs s) := fun a ha => read_fillBuffer b vs s a (ha b hb)

theorem sameExceptIn_trans {bs : List Buffer} {s t u : State} (hb : t.build = s.build) (h : sameExceptIn bs s t)
    (h' : sameExceptIn bs t u) : sameExceptIn bs s u := fun a ha => (h' a (by rw [hb]; exact ha)).trans (h a ha)

theorem sameExceptIn_mono {bs cs : List Buffer} {s t : State} (h : sameExceptIn bs s t) (hs : bs ⊆ cs) :
    sameExceptIn cs s t := fun a ha => h a fun b hb => ha b (hs hb)

/-- A buffer that is not among the given ones has the same cells. -/
theorem sameExceptIn_cell {bs : List Buffer} {s t : State} (h : sameExceptIn bs s t) {b : Buffer} (hb : b ∉ bs) {i : Nat}
    (hi : i < b.capacity s.build) : readCell t b i = readCell s b i := by
  refine h _ fun c hc => ?_
  by_contra hn
  have hh : b.holds s.build (b.base + i) = true := (holds_iff _ _ _).2 ⟨by omega, by omega⟩
  exact hb (holds_unique hh (by simpa using hn) ▸ hc)

theorem bufferIs_fillBuffer (b : Buffer) (vs : List Byte) (s : State) : bufferIs (fillBuffer b vs s) b vs :=
  fun i hi => readCell_fillBuffer b vs s i hi

/-- What a buffer holds depends on the build and the memory alone. -/
theorem bufferIs_of_mem {s t : State} {b : Buffer} {vs : List Byte} (h : bufferIs s b vs) (hb : t.build = s.build)
    (hm : t.mem = s.mem) : bufferIs t b vs := fun i hi => by rw [readCell_congr hm]; exact h i (by rwa [← hb])

/-- Writing one buffer leaves what another holds. -/
theorem bufferIs_fillBuffer_ne {s : State} {b b' : Buffer} {ws : List Byte} (h : bufferIs s b' ws) (hb : b' ≠ b)
    (vs : List Byte) : bufferIs (fillBuffer b vs s) b' ws :=
  fun i hi => (readCell_fillBuffer_ne hb vs s i hi).trans (h i hi)

/-! ## Lookups -/

@[simp] theorem lookupAll_nil {α : Type} (table : Byte → Option α) : lookupAll table [] = some [] := rfl

theorem lookupAll_cons_eq_some {α : Type} {table : Byte → Option α} {c : Byte} {cs : List Byte} {vs : List α} :
    lookupAll table (c :: cs) = some vs ↔ ∃ v ws, table c = some v ∧ lookupAll table cs = some ws ∧ vs = v :: ws := by
  rw [lookupAll]
  cases table c <;> cases lookupAll table cs <;> simp [eq_comm]

theorem lookupAll_length {α : Type} {table : Byte → Option α} {cs : List Byte} {vs : List α}
    (h : lookupAll table cs = some vs) : vs.length = cs.length := by
  induction cs generalizing vs with
  | nil => simp at h; simp [← h]
  | cons c cs ih =>
    obtain ⟨v, ws, -, hw, rfl⟩ := lookupAll_cons_eq_some.1 h
    simp [ih hw]

/-- A lookup goes character by character. -/
theorem lookupAll_getElem? {α : Type} {table : Byte → Option α} {cs : List Byte} {vs : List α}
    (h : lookupAll table cs = some vs) {k : Nat} {c : Byte} (hk : cs[k]? = some c) : vs[k]? = table c := by
  induction cs generalizing vs k with
  | nil => simp at hk
  | cons d ds ih =>
    obtain ⟨v, ws, hv, hw, rfl⟩ := lookupAll_cons_eq_some.1 h
    cases k with
    | zero => simp at hk; subst hk; simp [hv]
    | succ k => simpa using ih hw (by simpa using hk)

/-- A lookup fails exactly when some character is INV. -/
theorem lookupAll_eq_none {α : Type} {table : Byte → Option α} {cs : List Byte} :
    lookupAll table cs = none ↔ ∃ c ∈ cs, table c = none := by
  induction cs with
  | nil => simp
  | cons c cs ih =>
    rw [lookupAll]
    cases hc : table c <;> cases hs : lookupAll table cs <;> simp_all

/-- The lookup of two strings one after the other. -/
theorem lookupAll_append {α : Type} {table : Byte → Option α} {cs ds : List Byte} {vs : List α} :
    lookupAll table (cs ++ ds) = some vs ↔
      ∃ us ws, lookupAll table cs = some us ∧ lookupAll table ds = some ws ∧ vs = us ++ ws := by
  induction cs generalizing vs with
  | nil => simp
  | cons c cs ih =>
    simp only [List.cons_append, lookupAll_cons_eq_some, ih]
    constructor
    · rintro ⟨v, _, hv, ⟨us, ws, hu, hw, rfl⟩, rfl⟩
      exact ⟨v :: us, ws, ⟨v, us, hv, hu, rfl⟩, hw, rfl⟩
    · rintro ⟨_, ws, ⟨v, us, hv, hu, rfl⟩, hw, rfl⟩
      exact ⟨v, us ++ ws, hv, ⟨us, ws, hu, hw, rfl⟩, rfl⟩

/-! ## Base58 -/

@[simp] theorem payloadBytes_length (a : Accumulator) : (payloadBytes a).length = 25 := rfl

/-- The decoder's body gives 25 bytes whenever it gives any. -/
theorem b58body_length {str : List Byte} {strict : Bool} {p : List Byte} (h : b58body str strict = some p) :
    p.length = 25 := by
  rw [b58body] at h
  split at h <;> split at h <;> simp at h <;> subst h <;> simp

/-- In permissive mode the decoder's body cannot fail. -/
theorem b58body_permissive (str : List Byte) : (b58body str false).isSome = true := by
  rw [b58body]; split <;> simp

theorem runBase58_eq (s : State) :
    runBase58 s = (setPayload ((b58body (inputString s) (strictOn s)).getD []) s,
      (b58body (inputString s) (strictOn s)).isSome) := by
  rw [runBase58]; split <;> simp_all

/-! ## Regrouper -/

theorem regroupFrom_length (racc : BitVec 12) (rbits : Nat) (vs : List Quint) (h : rbits < 8) :
    (regroupFrom racc rbits vs).length = (rbits + 5 * vs.length) / 8 := by
  induction vs generalizing racc rbits with
  | nil => simp [regroupFrom]; omega
  | cons v vs ih =>
    rw [regroupFrom]
    split
    · rw [List.length_cons, ih _ _ (by omega), List.length_cons]; omega
    · rw [ih _ _ (by omega), List.length_cons]; congr 1; omega

/-- floor(5 × m / 8) bytes (spec/42_regroup.md R151). -/
@[simp] theorem regroup_length (vs : List Quint) : (regroup vs).length = 5 * vs.length / 8 := by
  rw [regroup, regroupFrom_length _ _ _ (by omega)]; simp

/-! ## Bech32 -/

/-- A framed string has its separator followed by at least 7 characters (spec/41_bech32.md R122). -/
theorem framing_bound {str : List Byte} {sep : Nat} (h : framing str = some sep) :
    separator str = some sep ∧ sep + 8 ≤ str.length := by
  rw [framing] at h
  split at h
  · split at h
    · simp at h; subst h; exact ⟨by assumption, by assumption⟩
    · simp at h
  · simp at h

theorem usedData_length {str : List Byte} {sep : Nat} (h : framing str = some sep) :
    (usedData str sep).length = dataLength str sep := by
  have := (framing_bound h).2
  simp [usedData, dataPart, dataLength]; omega

/-- The validator's sequence is the one R133 lists, when every character of the data part has a value. -/
theorem isValueSequence_checkSequence {str : List Byte} {sep : Nat} {ws : List Quint} (hs : sep < str.length)
    (hw : lookupAll b32val (dataPart str sep) = some ws) :
    isValueSequence str sep (checkSequence (str.take sep) ws) := by
  have hl : ws.length = str.length - sep - 1 := by rw [lookupAll_length hw, dataPart, List.length_drop]; omega
  have ht : (str.take sep).length = sep := by rw [List.length_take]; omega
  simp only [checkSequence, List.map_map]
  refine ⟨by simp only [List.length_append, List.length_map, ht, hl, List.length_singleton]; omega,
    fun i hi => ?_, ?_, fun k hk => ?_⟩
  · have hg : str[i]? = some str[i] := List.getElem?_eq_getElem (by omega)
    have hi' : (str.take sep)[i]? = some str[i] := by rw [List.getElem?_take, if_pos hi, hg]
    refine ⟨_, foldCase str[i], hg, rfl, ?_, ?_⟩
    · rw [List.getD_eq_getElem?_getD, List.append_assoc, List.append_assoc, List.getElem?_append_left (by simp; omega),
        List.getElem?_map, hi']
      have := (foldCase str[i]).isLt
      simp [BitVec.extractLsb'_toNat, Nat.shiftRight_eq_div_pow]; omega
    · rw [List.getD_eq_getElem?_getD, List.append_assoc, List.getElem?_append_right (by simp; omega),
        List.getElem?_append_left (by simp; omega), List.getElem?_map, List.length_append, List.length_map, ht,
        List.length_singleton, show sep + 1 + i - (sep + 1) = i by omega, hi']
      simp [BitVec.extractLsb'_toNat]
  · rw [List.getD_eq_getElem?_getD, List.append_assoc, List.append_assoc, List.getElem?_append_right (by simp)]
    simp [show sep - min sep str.length = 0 by omega]
  · have hg : (dataPart str sep)[k]? = some str[sep + 1 + k] := by
      rw [dataPart, List.getElem?_drop, List.getElem?_eq_getElem (by omega)]
    refine ⟨_, List.getElem?_eq_getElem (by omega), ?_⟩
    rw [List.getD_eq_getElem?_getD, List.getElem?_append_right (by simp; omega),
      show 2 * sep + 1 + k - _ = k from by simp; omega, lookupAll_getElem? hw hg]
    have := lookupAll_getElem? hw hg
    rw [List.getElem?_eq_getElem (by omega)] at this
    rw [← this]; rfl

theorem writeDecoded_eq (r : Decoded) (s : State) : writeDecoded r s = setWitness r.wver r.wop r.d5 r.prog s := rfl

theorem bufferIs_writeDecoded_d5 (r : Decoded) (s : State) :
    bufferIs (writeDecoded r s) .d5 (r.d5.map (·.setWidth 8)) :=
  bufferIs_of_mem (bufferIs_fillBuffer_ne (bufferIs_fillBuffer .d5 _ s) (by decide) r.prog) rfl rfl

theorem bufferIs_writeDecoded_prog (r : Decoded) (s : State) : bufferIs (writeDecoded r s) .prog r.prog :=
  bufferIs_of_mem (bufferIs_fillBuffer .prog r.prog (fillBuffer .d5 (r.d5.map (·.setWidth 8)) s)) rfl rfl

/-- Writing the decoder's results stores in D5 and PROG alone. -/
theorem sameExceptIn_writeDecoded (r : Decoded) (s : State) : sameExceptIn [.d5, .prog] s (writeDecoded r s) := by
  intro a ha
  rw [writeDecoded_eq, setWitness_mem,
    read_fillBuffer .prog r.prog (fillBuffer .d5 (r.d5.map (·.setWidth 8)) s) a (ha .prog (by simp)),
    read_fillBuffer .d5 _ s a (ha .d5 (by simp))]

/-- No input overflows D5 (R138 (d)). -/
theorem b32body_d5_length_le {c : Build} {str : List Byte} (h : str.length ≤ c.AMAX) :
    (b32body c str).d5.length ≤ c.DMAX := by
  have hs := build_sizes c
  rw [b32body]
  split
  · simp [frameFail]
  · rename_i sep hf
    have hb := framing_bound hf
    split
    · simp [garbageDecoded, dataLength]
    · rename_i us hu
      have := lookupAll_length hu
      rw [usedData_length hf, dataLength] at this
      simp [decodeValues]; omega

/-- The program has floor(5 × d5len / 8) bytes in every case (R121, R127, R128). -/
theorem b32body_prog_length {c : Build} {str : List Byte} (h : str.length ≤ c.AMAX) :
    (b32body c str).prog.length = 5 * (b32body c str).d5.length / 8 := by
  have hs := build_sizes c
  rw [b32body]
  split
  · simp [frameFail]
  · rename_i sep hf
    have hb := framing_bound hf
    split
    · simp [garbageDecoded, dataLength]; omega
    · simp [decodeValues]

theorem b32body_prog_length_le {c : Build} {str : List Byte} (h : str.length ≤ c.AMAX) :
    (b32body c str).prog.length ≤ c.PMAX := by
  have := b32body_d5_length_le h
  have hs := build_sizes c
  rw [b32body_prog_length h]; omega

/-- The state the decoder's body writes its results into: CHKST and CHKRES first, in strict mode (R120, R136). -/
def checkedState (s : State) : State :=
  if strictOn s then writeCheck (validate (inputString s)) s else s

/-- In strict mode only a string the validator passes is decoded (R136). -/
def bech32Accepted (s : State) : Bool := !strictOn s || (validate (inputString s)).sumOk

/-- The values the decoder leaves: those of its body, or zero for a string that is not accepted (R120). -/
def bech32Result (s : State) : Decoded :=
  if bech32Accepted s then b32body s.build (inputString s) else ⟨0, 0, [], []⟩

theorem runBech32_eq (s : State) :
    runBech32 s = (writeDecoded (bech32Result s) (checkedState s), bech32Accepted s) := by
  simp only [runBech32, checkedState, bech32Result, bech32Accepted]
  by_cases h : strictOn s = true <;> by_cases hv : (validate (inputString s)).sumOk = true <;> simp [h, hv, writeDecoded]

theorem bech32Result_d5_length_le (s : State) : (bech32Result s).d5.length ≤ s.build.DMAX := by
  rw [bech32Result]
  split
  · exact b32body_d5_length_le (inputString_length_le s)
  · simp

theorem bech32Result_prog_length_le (s : State) : (bech32Result s).prog.length ≤ s.build.PMAX := by
  rw [bech32Result]
  split
  · exact b32body_prog_length_le (inputString_length_le s)
  · simp

theorem checkedState_of_permissive {s : State} (h : strictOn s = false) : checkedState s = s := by
  simp [checkedState, h]

theorem checkedState_of_strict {s : State} (h : strictOn s = true) :
    checkedState s = writeCheck (validate (inputString s)) s := by simp [checkedState, h]

/-- Every register but CHKST and CHKRES is as before (R27). -/
theorem checkedState_frame (s : State) :
    (checkedState s).build = s.build ∧ (checkedState s).cmd = s.cmd ∧ (checkedState s).status = s.status ∧
    (checkedState s).ctrl = s.ctrl ∧
    (checkedState s).argv = s.argv ∧ (checkedState s).alen = s.alen ∧ (checkedState s).isScript = s.isScript ∧
    (checkedState s).isWitness = s.isWitness ∧ (checkedState s).wver = s.wver ∧ (checkedState s).wop = s.wop ∧
    (checkedState s).d5len = s.d5len ∧ (checkedState s).plen = s.plen ∧ (checkedState s).slen = s.slen ∧
    (checkedState s).mem = s.mem ∧ (checkedState s).bus = s.bus ∧ (checkedState s).returned = s.returned := by
  rw [checkedState]; split <;> simp [writeCheck]

@[simp] theorem checkedState_build (s : State) : (checkedState s).build = s.build := (checkedState_frame s).1
@[simp] theorem checkedState_cmd (s : State) : (checkedState s).cmd = s.cmd := (checkedState_frame s).2.1
@[simp] theorem checkedState_status (s : State) : (checkedState s).status = s.status := (checkedState_frame s).2.2.1
@[simp] theorem checkedState_ctrl (s : State) : (checkedState s).ctrl = s.ctrl := (checkedState_frame s).2.2.2.1
@[simp] theorem checkedState_argv (s : State) : (checkedState s).argv = s.argv := (checkedState_frame s).2.2.2.2.1
@[simp] theorem checkedState_alen (s : State) : (checkedState s).alen = s.alen := (checkedState_frame s).2.2.2.2.2.1
@[simp] theorem checkedState_isScript (s : State) : (checkedState s).isScript = s.isScript :=
  (checkedState_frame s).2.2.2.2.2.2.1
@[simp] theorem checkedState_isWitness (s : State) : (checkedState s).isWitness = s.isWitness :=
  (checkedState_frame s).2.2.2.2.2.2.2.1
@[simp] theorem checkedState_wver (s : State) : (checkedState s).wver = s.wver :=
  (checkedState_frame s).2.2.2.2.2.2.2.2.1
@[simp] theorem checkedState_wop (s : State) : (checkedState s).wop = s.wop :=
  (checkedState_frame s).2.2.2.2.2.2.2.2.2.1
@[simp] theorem checkedState_d5len (s : State) : (checkedState s).d5len = s.d5len :=
  (checkedState_frame s).2.2.2.2.2.2.2.2.2.2.1
@[simp] theorem checkedState_plen (s : State) : (checkedState s).plen = s.plen :=
  (checkedState_frame s).2.2.2.2.2.2.2.2.2.2.2.1
@[simp] theorem checkedState_slen (s : State) : (checkedState s).slen = s.slen :=
  (checkedState_frame s).2.2.2.2.2.2.2.2.2.2.2.2.1
@[simp] theorem checkedState_mem (s : State) : (checkedState s).mem = s.mem :=
  (checkedState_frame s).2.2.2.2.2.2.2.2.2.2.2.2.2.1
@[simp] theorem checkedState_bus (s : State) : (checkedState s).bus = s.bus :=
  (checkedState_frame s).2.2.2.2.2.2.2.2.2.2.2.2.2.2.1
@[simp] theorem checkedState_returned (s : State) : (checkedState s).returned = s.returned :=
  (checkedState_frame s).2.2.2.2.2.2.2.2.2.2.2.2.2.2.2

end Sys2Proof.Machine
end

