-- ==== Sys2Proof/Laws/Exec.lean ====
section
/-! SUPPORT. What each command can do, said once: the next state in terms of the shared operations. -/

namespace Sys2Proof.Machine

/-- B58DEC (spec/40_base58.md R100). -/
theorem exec_b58dec (s : State) :
    exec .b58dec s = .next (setOutcome
      (if (b58body (inputString s) (strictOn s)).isSome then .ok else .invalidAddress)
      (setPayload ((b58body (inputString s) (strictOn s)).getD []) s)) := by
  simp only [exec, execB58dec, runBase58_eq, complete, raise]
  split <;> rename_i h <;> injection h with h1 h2 <;> subst h1 <;> simp [h2]

/-- B32DEC (spec/41_bech32.md R120). -/
theorem exec_b32dec (s : State) :
    exec .b32dec s = .next (setOutcome (if bech32Accepted s then .ok else .invalidAddress)
      (writeDecoded (bech32Result s) (checkedState s))) := by
  simp only [exec, execB32dec, runBech32_eq, complete, raise]
  split <;> rename_i h <;> injection h with h1 h2 <;> subst h1 <;> simp [h2]

/-- CHK32 (R130). -/
theorem exec_chk32 (s : State) : exec .chk32 s = .next (setOutcome .ok (writeCheck (validate (inputString s)) s)) := rfl

/-- REGRP (spec/42_regroup.md R150). -/
theorem exec_regrp (s : State) : exec .regrp s = .next (setOutcome .ok (setProgram (regroup (d5Values s)) s)) := rfl

/-- MKPKH (spec/43_script.md R160). -/
theorem exec_mkpkh (s : State) :
    exec .mkpkh s = .next (setOutcome .ok (setScript (pubkeyHashScript (hash20 s)) s)) := rfl

/-- MKSH (R161). -/
theorem exec_mksh (s : State) :
    exec .mksh s = .next (setOutcome .ok (setScript (scriptHashScript (hash20 s)) s)) := rfl

/-- MKWP (R162). -/
theorem exec_mkwp (s : State) :
    exec .mkwp s = .next (setOutcome .ok (setScript (witnessScript s.wop s.plen (programBytes s)) s)) := rfl

/-- CLR (spec/44_dispatch.md R180). -/
theorem exec_clr (s : State) : exec .clr s = .next (resetBlock s) := rfl

/-- A2S without its three arguments (R171). -/
theorem exec_a2s_missing {s : State} (h : argumentsSupplied s.argv = false) :
    exec .a2s s = .next (setOutcome .missingArg (clearArgv (setScript [] s))) := by
  simp [exec, execA2s, h, failCall, raise]

/-- The template of a legacy path (R172, R173). -/
def assembleLegacy (s : State) : State → State :=
  if flagBit s.isScript then assembleScriptHash else assemblePubkeyHash

/-- A2S on a legacy path (R173). -/
theorem exec_a2s_legacy {s : State} (h : argumentsSupplied s.argv = true) (hw : flagBit s.isWitness = false) :
    exec .a2s s =
      if (b58body (inputString s) (strictOn s)).isSome then
        .next (setOutcome .ok (clearArgv (assembleLegacy s
          (setPayload ((b58body (inputString s) (strictOn s)).getD []) s))))
      else
        .next (setOutcome .invalidAddress (clearArgv (setScript [] (setPayload [] s)))) := by
  simp only [exec, execA2s, h, hw, legacyPath, runBase58_eq, assembleLegacy]
  cases b58body (inputString s) (strictOn s) <;> cases flagBit s.isScript <;> rfl

/-- A2S on the witness path (R174). -/
theorem exec_a2s_witness {s : State} (h : argumentsSupplied s.argv = true) (hw : flagBit s.isWitness = true) :
    exec .a2s s =
      if bech32Accepted s then
        .next (setOutcome .ok (clearArgv (assembleWitness (writeDecoded (bech32Result s) (checkedState s)))))
      else
        .next (setOutcome .invalidAddress (clearArgv (setScript [] (writeDecoded (bech32Result s) (checkedState s))))) := by
  simp only [exec, execA2s, h, hw, witnessPath, runBech32_eq]
  cases bech32Accepted s <;> rfl

/-! ## Every A2S in one shape -/

/-- The three ways an A2S can go (R171 to R174), as what stands before SCRIPT, ARGV and STATUS are written: no
decoder has run, the base58 decoder has run, the bech32 decoder has run. -/
inductive A2sPath (s : State) : Err → List Byte → State → Prop where
  | missing (h : argumentsSupplied s.argv = false) : A2sPath s .missingArg [] s
  | legacy (h : argumentsSupplied s.argv = true) (hw : flagBit s.isWitness = false) (vs : List Byte)
      (hl : vs.length ≤ max 25 s.build.SMAX) (ha : (b58body (inputString s) (strictOn s)).isSome = true) :
      A2sPath s .ok vs (setPayload ((b58body (inputString s) (strictOn s)).getD []) s)
  | legacyFail (h : argumentsSupplied s.argv = true) (hw : flagBit s.isWitness = false) (hs : strictOn s = true)
      (ha : b58body (inputString s) (strictOn s) = none) : A2sPath s .invalidAddress [] (setPayload [] s)
  | witness (h : argumentsSupplied s.argv = true) (hw : flagBit s.isWitness = true) (vs : List Byte)
      (hl : vs.length ≤ max 25 s.build.SMAX) (ha : bech32Accepted s = true) :
      A2sPath s .ok vs (writeDecoded (bech32Result s) (checkedState s))
  | witnessFail (h : argumentsSupplied s.argv = true) (hw : flagBit s.isWitness = true) (hs : strictOn s = true)
      (ha : bech32Accepted s = false) :
      A2sPath s .invalidAddress [] (writeDecoded (bech32Result s) (checkedState s))

theorem pubkeyHashScript_length (s : State) : (pubkeyHashScript (hash20 s)).length = 25 := by
  simp [pubkeyHashScript, hash20_length]

theorem scriptHashScript_length (s : State) : (scriptHashScript (hash20 s)).length = 23 := by
  simp [scriptHashScript, hash20_length]

theorem witnessScript_length (wop plen : Byte) (s : State) :
    (witnessScript wop plen (programBytes s)).length = 2 + min s.plen.toNat s.build.PMAX := by
  simp [witnessScript, programBytes_length]; omega

/-- Every A2S writes SCRIPT, clears ARGV and writes STATUS, in this order, after one of the paths (R170 to R175). -/
theorem exec_a2s_cases (s : State) :
    ∃ e vs u, A2sPath s e vs u ∧ exec .a2s s = .next (setOutcome e (clearArgv (setScript vs u))) := by
  cases h : argumentsSupplied s.argv
  · exact ⟨_, _, _, .missing h, exec_a2s_missing h⟩
  cases hw : flagBit s.isWitness
  · have hx := exec_a2s_legacy h hw
    cases ha : b58body (inputString s) (strictOn s) with
    | none =>
      rw [ha, Option.isSome_none, if_neg (by simp)] at hx
      refine ⟨_, _, _, .legacyFail h hw ?_ ha, hx⟩
      by_contra hs
      have := b58body_permissive (inputString s)
      rw [← Bool.not_eq_true _ |>.mp hs, ha] at this
      simp at this
    | some p =>
      have hp : A2sPath s .ok _ _ := .legacy h hw (if flagBit s.isScript then scriptHashScript (hash20 (setPayload p s))
        else pubkeyHashScript (hash20 (setPayload p s))) (by
          split
          · rw [scriptHashScript_length]; omega
          · rw [pubkeyHashScript_length]; omega) (by simp [ha])
      refine ⟨_, _, _, hp, ?_⟩
      rw [hx, ha, Option.isSome_some, if_pos rfl, Option.getD_some, assembleLegacy]
      cases flagBit s.isScript <;> rfl
  · have hx := exec_a2s_witness h hw
    cases ha : bech32Accepted s
    · rw [ha, if_neg (by simp)] at hx
      refine ⟨_, _, _, .witnessFail h hw ?_ ha, hx⟩
      simp only [bech32Accepted, Bool.or_eq_false_iff, Bool.not_eq_false'] at ha
      exact ha.1
    · rw [ha, if_pos rfl] at hx
      exact ⟨_, _, _, .witness h hw _ (by
        have := build_sizes s.build
        rw [witnessScript_length, writeDecoded_eq, setWitness_build, checkedState_build]; omega) ha, hx⟩

/-! ## A2S as one equation -/

/-- The outcome of a call (R170). -/
def a2sErr (s : State) : Err :=
  if argumentsSupplied s.argv then
    if flagBit s.isWitness then if bech32Accepted s then .ok else .invalidAddress
    else if (b58body (inputString s) (strictOn s)).isSome then .ok else .invalidAddress
  else .missingArg

/-- The script of a call, a function of its inputs alone (spec/10_state.md R50). -/
def a2sScript (s : State) : List Byte :=
  if argumentsSupplied s.argv then
    if flagBit s.isWitness then
      if bech32Accepted s then
        witnessScript (bech32Result s).wop (BitVec.ofNat 8 (bech32Result s).prog.length) (bech32Result s).prog
      else []
    else
      match b58body (inputString s) (strictOn s) with
      | none => []
      | some p => if flagBit s.isScript then scriptHashScript ((p.drop 1).take 20)
        else pubkeyHashScript ((p.drop 1).take 20)
  else []

/-- The state before SCRIPT, ARGV and STATUS are written: the decoder of the path has run. -/
def a2sDecoded (s : State) : State :=
  if argumentsSupplied s.argv then
    if flagBit s.isWitness then writeDecoded (bech32Result s) (checkedState s)
    else setPayload ((b58body (inputString s) (strictOn s)).getD []) s
  else s

theorem exec_a2s (s : State) :
    exec .a2s s = .next (setOutcome (a2sErr s) (clearArgv (setScript (a2sScript s) (a2sDecoded s)))) := by
  cases ha : argumentsSupplied s.argv
  · rw [exec_a2s_missing ha]; simp [a2sErr, a2sScript, a2sDecoded, ha]
  cases hw : flagBit s.isWitness
  · rw [exec_a2s_legacy ha hw]
    simp only [a2sErr, a2sScript, a2sDecoded, ha, hw, if_true, Bool.false_eq_true, if_false]
    cases hb : b58body (inputString s) (strictOn s) with
    | none => simp
    | some p =>
      have h20 := hash20_setPayload (b58body_length hb) s
      simp only [Option.isSome_some, if_true, Option.getD_some, assembleLegacy]
      cases flagBit s.isScript
      · simp only [Bool.false_eq_true, if_false, assemblePubkeyHash, h20]
      · simp only [if_true, assembleScriptHash, h20]
  · rw [exec_a2s_witness ha hw]
    simp only [a2sErr, a2sScript, a2sDecoded, ha, hw, if_true]
    have hp : (bech32Result s).prog.length ≤ (checkedState s).build.PMAX := by
      rw [checkedState_build]; exact bech32Result_prog_length_le s
    cases bech32Accepted s
    · simp
    · simp only [if_true, assembleWitness, writeDecoded,
        programBytes_setWitness _ _ _ hp, setWitness_wop, setWitness_plen]

end Sys2Proof.Machine
end

