-- ==== Sys2Proof/Laws/PerInstr.lean ====
section
/-! SUPPORT. A statement about every command, one lemma per command: the command byte has the form CMD8, one byte whose
reserved bits are 0 (spec/30_encoding.md R80), and is not the cleared CMD (R84). -/

namespace Sys2Proof.Laws.Encoding

def Statement (i : Instr) : Prop :=
  encode i = [encodeByte i] ∧ (encodeByte i).extractLsb' 4 4 = 0 ∧ encodeByte i ≠ 0

theorem a2s : Statement .a2s := ⟨rfl, by decide, by decide⟩
theorem b58dec : Statement .b58dec := ⟨rfl, by decide, by decide⟩
theorem b32dec : Statement .b32dec := ⟨rfl, by decide, by decide⟩
theorem regrp : Statement .regrp := ⟨rfl, by decide, by decide⟩
theorem mkpkh : Statement .mkpkh := ⟨rfl, by decide, by decide⟩
theorem mksh : Statement .mksh := ⟨rfl, by decide, by decide⟩
theorem mkwp : Statement .mkwp := ⟨rfl, by decide, by decide⟩
theorem chk32 : Statement .chk32 := ⟨rfl, by decide, by decide⟩
theorem clr : Statement .clr := ⟨rfl, by decide, by decide⟩

end Sys2Proof.Laws.Encoding
end

