-- ==== Sys2Proof/Laws/Step.lean ====
section
/-! SUPPORT. What one step can do, by the oldest input. -/

namespace Sys2Proof.Machine

theorem step_idle {s : State} (h : s.bus = []) : step s = .next s := by rw [step, h]

theorem step_input {s : State} {i : Input} {rest : List Input} (h : s.bus = i :: rest) :
    step s = accept i { s with bus := rest } := by rw [step, h]

theorem locate_cmd (c : Build) : locate c Loc.cmd.offset = some .cmd := rfl

theorem hostWrite_cmd (v : Byte) (s : State) :
    hostWrite Loc.cmd.offset v s = runCommand v { s with cmd := v } := by rw [hostWrite, locate_cmd]; rfl

/-- A write anywhere but CMD stores at its location and does nothing else (spec/20_memory.md R64). -/
theorem hostWrite_of_ne_cmd {off : Offset} {l : Loc} {s : State} (h : locate s.build off = some l) (hc : l ≠ .cmd)
    (v : Byte) : hostWrite off v s = .next (writeLoc l v s) := by
  rw [hostWrite, h]
  cases l <;> first | rfl | exact absurd rfl hc

theorem hostWrite_reserved {off : Offset} {s : State} (h : locate s.build off = none) (v : Byte) :
    hostWrite off v s = .next s := by rw [hostWrite, h]

theorem step_write {s : State} {off : Offset} {v : Byte} {rest : List Input}
    (h : s.bus = .access (.write off v) :: rest) : step s = hostWrite off v { s with bus := rest } := by
  rw [step_input h]; rfl

theorem step_read {s : State} {off : Offset} {rest : List Input} (h : s.bus = .access (.read off) :: rest) :
    step s = .next (returnByte (hostRead { s with bus := rest } off) { s with bus := rest }) := by
  rw [step_input h]; rfl

/-- The windows do not meet: an offset in a buffer's window names that buffer (R62). -/
theorem bufferAtOffset_cell {b : Buffer} {i : Nat} (h : i < b.window) : bufferAtOffset (b.firstOffset + i) = some b := by
  revert i; cases b <;> decide +kernel

/-- Where AMAX is at most 128 every cell lies in its buffer's window, so it has an offset (R62). -/
theorem capacity_le_window {c : Build} (h : c.AMAX ≤ 128) (b : Buffer) : b.capacity c ≤ b.window := by
  have := build_sizes c
  cases b <;> simp [Buffer.window] <;> omega

/-- A cell the host can name is a cell of the build that lies in its buffer's window. -/
theorem lt_reach {c : Build} {b : Buffer} {i : Nat} : i < b.reach c ↔ i < b.capacity c ∧ i < b.window := by
  rw [Buffer.reach, Nat.lt_min]

/-- For AMAX at most 128 the host can name every cell. -/
theorem reach_eq_capacity {c : Build} (h : c.AMAX ≤ 128) (b : Buffer) : b.reach c = b.capacity c :=
  Nat.min_eq_left (capacity_le_window h b)

/-- A buffer cell the host can name is found at its offset (R62). -/
theorem locate_offset_cell {c : Build} {b : Buffer} {i : Nat} (h : i < b.reach c) :
    locate c (Loc.cell b i).offset = some (.cell b i) := by
  have hw := (lt_reach.1 h).2
  have hn : (BitVec.ofNat 9 (b.firstOffset + i)).toNat = b.firstOffset + i := by
    rw [BitVec.toNat_ofNat, Nat.mod_eq_of_lt]
    cases b <;> simp [Buffer.firstOffset, Buffer.window] at hw ⊢ <;> omega
  have hb : 0x020 ≤ b.firstOffset := by cases b <;> decide
  rw [Loc.offset, Loc.offsetNat, locate, hn]
  split <;> first | omega | skip
  rw [cellAtOffset, bufferAtOffset_cell hw]
  simp [h]

theorem hostRead_cell {b : Buffer} {i : Nat} {s : State} (h : i < b.reach s.build) :
    hostRead s (BitVec.ofNat 9 (b.firstOffset + i)) = readLoc s (.cell b i) := by
  rw [hostRead, show BitVec.ofNat 9 (b.firstOffset + i) = (Loc.cell b i).offset from rfl, locate_offset_cell h]

/-- A host write to a cell of a buffer the host may write (R64). -/
theorem step_writeCell {s : State} {b : Buffer} {k : Nat} {v : Byte} {rest : List Input} (hb : b ≠ .script)
    (hk : k < b.reach s.build)
    (h : s.bus = .access (.write (Loc.cell b k).offset v) :: rest) :
    step s = .next (writeCell b k v { s with bus := rest }) := by
  rw [step_write h, hostWrite_of_ne_cmd (s := { s with bus := rest }) (locate_offset_cell hk) (by simp)]
  cases b <;> first | rfl | exact absurd rfl hb

/-- Runs of the machine, one step at a time. -/
theorem run_succ (M : Host.Core) (n : Nat) (s t : M.State) (h : M.step s = .next t) : M.run (n + 1) s = M.run n t := by
  rw [Host.Core.run, h]

theorem run_one (M : Host.Core) (s : M.State) : M.run 1 s = M.step s := by
  rw [Host.Core.run]; cases M.step s <;> rfl

/-- Storing at a location hands the host nothing, takes no input and leaves the build. -/
theorem writeLoc_outside (l : Loc) (v : Byte) (s : State) :
    (writeLoc l v s).bus = s.bus ∧ (writeLoc l v s).returned = s.returned ∧ (writeLoc l v s).build = s.build := by
  cases l with
  | cell b i => cases b <;> simp [writeLoc]
  | _ => first | exact ⟨rfl, rfl, rfl⟩ | (rw [writeLoc]; split <;> exact ⟨rfl, rfl, rfl⟩)

end Sys2Proof.Machine
end

