-- ==== Sys2Proof/Tests/Slice0.lean ====
section
/-! SUPPORT. Tests: decoding of written-out command bytes, ill-formed terms, one-step tests whose expected values are
the spec's own (spec/95_test_vectors.md unless a comment says otherwise), and for every statement with hypotheses a
concrete state and operands that meet them. -/

namespace Sys2Proof.Tests

open Sys2Proof.Machine

-- The tests are checked one after the other: checked side by side they need more stacks than the memory limit allows.
set_option Elab.async false

/-! ## Helpers -/

/-- The bytes of a text. -/
def ascii (text : String) : List Byte := charCodes text.toList

/-- The address loaded: its characters in ABUF, its length in ALEN. -/
def address (text : String) (s : State := .reset) : State :=
  { fillBuffer .abuf (ascii text) s with alen := BitVec.ofNat 8 text.length }

/-- All three arguments supplied, with the two flags. -/
def called (script witness : Byte) (s : State) : State :=
  { s with argv := 0b111, isScript := script, isWitness := witness }

/-- Strict mode on. -/
def strict (s : State) : State := { s with ctrl := 1 }

/-- The state in another build. -/
def inBuild (amax : Fin 256) (hasStrict : Bool) (s : State := .reset) : State := { s with build := ⟨amax, hasStrict⟩ }

/-- A pending host write. -/
def pending (off : Offset) (v : Byte) : State := { State.reset with bus := [.access (.write off v)] }

/-- The outcome is a next state with the given property. -/
def yields (o : Host.Outcome State Fault Refusal) (p : State → Bool) : Bool :=
  match o with
  | .next t => p t
  | .fault _ | .refused _ => false

/-- The state has the given cells from cell 0 of a buffer on. -/
def holds (t : State) (b : Buffer) (vs : List Byte) : Bool := cellRange t b 0 vs.length = vs

/-- Genesis address, V20. -/
def genesis : String := "1A1zP1eP5QGefi2DMPTfTL5SLmv7DivfNa"

/-- The hash of V20. -/
def genesisHash : List Byte :=
  [0x62, 0xe9, 0x07, 0xb1, 0x5c, 0xbf, 0x27, 0xd5, 0x42, 0x53, 0x99, 0xeb, 0xf6, 0xf0, 0xfb, 0x50, 0xeb, 0xb8, 0x8f, 0x18]

/-- The address of V40. -/
def segwit : String := "bc1qw508d6qejxtdg4y5r3zarvary0c5xw7kv8f3t4"

/-- The program of V40. -/
def segwitProgram : List Byte :=
  [0x75, 0x1e, 0x76, 0xe8, 0x19, 0x91, 0x96, 0xd4, 0x54, 0x94, 0x1c, 0x45, 0xd1, 0xb3, 0xa3, 0x23, 0xf1, 0x43, 0x3b, 0xd6]

/-- The hash of V1: 01 02 … 14. -/
def countingHash : List Byte := (List.range' 1 20).map (BitVec.ofNat 8 ·)

/-! ## Decoding: bytes written out from spec/30_encoding.md R83, RSV then OP -/

theorem test_decode_top : decode [0b00000001] = .ok (.a2s, []) ∧ decode [0b00001001] = .ok (.clr, []) := by decide
theorem test_decode_b58 : decode [0b00000010, 0xff] = .ok (.b58dec, [0xff]) := by decide
theorem test_decode_b32 : decode [0b00000011] = .ok (.b32dec, []) ∧ decode [0b00001000] = .ok (.chk32, []) := by decide
theorem test_decode_rg : decode [0b00000100] = .ok (.regrp, []) := by decide
theorem test_decode_sb : decode [0b00000101] = .ok (.mkpkh, []) ∧ decode [0b00000110] = .ok (.mksh, []) ∧
    decode [0b00000111] = .ok (.mkwp, []) := by decide
theorem test_decode_illegal : decode [0b00000000] = .error (.illegalByte 0) ∧
    decode [0b00001010] = .error (.illegalByte 0x0A) ∧ decode [0b00010001] = .error (.illegalByte 0x11) ∧
    decode [0b10000001] = .error (.illegalByte 0x81) ∧ decode [] = .error .noByte := by decide
theorem test_decode_no_strict_unit : decodeByteFor false 0b00001000 = none := by decide
theorem test_table_word : decodeTableWord 8 0b00000100 = some .regrp ∧ decodeTableWord 8 0b11110100 = none := by decide

/-! ## The sizes (spec/00_scope.md R5; other builds by R5's formulas, by hand) -/

theorem test_sizes_spec :
    Build.spec.AMAX = 128 ∧ Build.spec.DMAX = 120 ∧ Build.spec.PMAX = 75 ∧ Build.spec.SMAX = 77 := by
  decide
theorem test_sizes_other : Build.DMAX ⟨255, true⟩ = 247 ∧ Build.PMAX ⟨255, true⟩ = 154 ∧ Build.SMAX ⟨255, true⟩ = 156 ∧
    Build.DMAX ⟨45, true⟩ = 37 ∧ Build.PMAX ⟨45, true⟩ = 23 ∧ Build.SMAX ⟨45, true⟩ = 25 ∧ Build.legal ⟨45, true⟩ ∧
    ¬ Build.legal ⟨44, true⟩ := by decide

/-! ## Ill-formed terms (R80, R86 to R88, spec/00_scope.md R7, R9) -/

theorem test_wf_chk32_needs_strict_unit : Instr.wellFormedFor false .chk32 = false := by decide
theorem test_wf_cell_past_capacity :
    Loc.wellFormed .spec (.cell .p58 25) = false ∧ Loc.wellFormed .spec (.cell .d5 120) = false ∧
    Place.wellFormed .spec (.loc (.cell .script 77)) = false := by decide
/-- With AMAX = 255 the map gives no offset to ABUF[128] or D5[128] (log entry 15). -/
theorem test_wf_cell_without_offset :
    Loc.wellFormed ⟨255, true⟩ (.cell .abuf 128) = false ∧ Loc.wellFormed ⟨255, true⟩ (.cell .d5 128) = false ∧
    Loc.wellFormed ⟨255, true⟩ (.cell .abuf 127) = true ∧
    HostLine.wellFormed ⟨255, true⟩ (.ldb .abuf 127 [1, 2]) = false := by decide
theorem test_wf_lda_too_long : HostLine.wellFormed .spec (.lda (List.replicate 129 0x31)) = false := by decide +kernel
theorem test_wf_args_not_bits :
    HostLine.wellFormed .spec (.args 2 0) = false ∧ HostLine.wellFormed .spec (.args 0 2) = false := by decide
theorem test_wf_call : HostLine.wellFormed .spec (.call [] 0 3) = false ∧
    HostLine.wellFormed .spec (.call (List.replicate 129 0x31) 0 0) = false := by decide +kernel
theorem test_wf_ldb_past_end : HostLine.wellFormed .spec (.ldb .p58 24 [1, 2]) = false ∧
    HostLine.wellFormed .spec (.expectCells .script 77 [0]) = false := by decide
theorem test_wf_strict_not_a_bit : HostLine.wellFormed .spec (.strict 2) = false := by decide
theorem test_wf_wr_cell : HostLine.wellFormed .spec (.wr (.loc (.cell .abuf 128)) 0) = false := by decide

/-! ## Tables (spec/10_state.md R46, R47, by code) -/

theorem test_b58val : b58val 0x31 = some 0 ∧ b58val 0x39 = some 8 ∧ b58val 0x41 = some 9 ∧ b58val 0x48 = some 16 ∧
    b58val 0x4A = some 17 ∧ b58val 0x4E = some 21 ∧ b58val 0x50 = some 22 ∧ b58val 0x5A = some 32 ∧
    b58val 0x61 = some 33 ∧ b58val 0x6B = some 43 ∧ b58val 0x6D = some 44 ∧ b58val 0x7A = some 57 := by decide +kernel
theorem test_b32val : b32val 0x71 = some 0 ∧ b32val 0x51 = some 0 ∧ b32val 0x30 = some 15 ∧ b32val 0x32 = some 10 ∧
    b32val 0x39 = some 5 ∧ b32val 0x6C = some 31 ∧ b32val 0x4C = some 31 ∧ b32val 0x61 = some 29 ∧ b32val 0x62 = none ∧
    b32val 0x31 = none := by decide +kernel

/-! ## One step -/

/-- V20. -/
theorem test_b58dec_genesis : yields (exec .b58dec (address genesis)) (fun t =>
    t.status = 0x04 && holds t .p58 ([0x00] ++ genesisHash ++ [0xc2, 0x9b, 0x7d, 0x93])) = true := by decide +kernel

/-- V28: truncated modulo 2^200; strict mode rejects it (V33). -/
theorem test_b58dec_too_wide :
    yields (exec .b58dec (address "zzzzzzzzzzzzzzzzzzzzzzzzzzzzzzzzzzz")) (fun t =>
      t.status = 0x04 && holds t .p58 [0xa8, 0x46, 0x9d, 0xec, 0xa6, 0xb5]) = true ∧
    yields (exec .b58dec (strict (address "zzzzzzzzzzzzzzzzzzzzzzzzzzzzzzzzzzz"))) (fun t =>
      t.status = 0x06 && holds t .p58 (List.replicate 25 0)) = true := by decide +kernel

/-- V40. -/
theorem test_b32dec_segwit : yields (exec .b32dec (address segwit)) (fun t =>
    t.status = 0x04 && t.wver = 0x00 && t.wop = 0x00 && t.d5len = 32 && t.plen = 20 &&
    holds t .prog (segwitProgram ++ [0, 0])) = true := by decide +kernel

/-- V50c: version 31, an opcode of 0x6f. -/
theorem test_b32dec_version31 : yields (exec .b32dec (address "a1lqy46ddrf")) (fun t =>
    t.wver = 0x1f && t.wop = 0x6f && t.d5len = 2 && t.plen = 1 && holds t .prog [0x01, 0x00]) = true := by decide +kernel

/-- V60 and V66. -/
theorem test_chk32 :
    yields (exec .chk32 (address segwit)) (fun t => t.status = 0x04 && t.chkst = 0x07 && t.chkres = 1) = true ∧
    yields (exec .chk32 (address "a1qqqqqqq")) (fun t => t.status = 0x04 && t.chkst = 0x03 && t.chkres = 0x228d6e70)
      = true := by decide +kernel

/-- V62: the human-readable part is folded to lower case. -/
theorem test_chk32_upper_case :
    yields (exec .chk32 (address "BC1QW508D6QEJXTDG4Y5R3ZARVARY0C5XW7KV8F3T4")) (fun t =>
      t.status = 0x04 && t.chkst = 0x07 && t.chkres = 1) = true := by decide +kernel

/-- V70. -/
theorem test_regrp : yields (exec .regrp { fillBuffer .d5 [1, 2, 3, 4, 5, 6, 7, 8] .reset with d5len := 8 }) (fun t =>
    t.plen = 5 && holds t .prog [0x08, 0x86, 0x42, 0x98, 0xe8, 0x00]) = true := by decide +kernel

/-- V1. -/
theorem test_mkpkh : yields (exec .mkpkh (fillBuffer .p58 ([0x05] ++ countingHash) .reset)) (fun t =>
    t.slen = 25 && holds t .script ([0x76, 0xa9, 0x14] ++ countingHash ++ [0x88, 0xac, 0x00])) = true := by decide +kernel

/-- V2. -/
theorem test_mksh : yields (exec .mksh (fillBuffer .p58 ([0x05] ++ countingHash) .reset)) (fun t =>
    t.slen = 23 && holds t .script ([0xa9, 0x14] ++ countingHash ++ [0x87, 0x00, 0x00])) = true := by decide +kernel

/-- V82. -/
theorem test_mkwp : yields (exec .mkwp { fillBuffer .prog [0xcd] .reset with wop := 0xab, plen := 1 }) (fun t =>
    t.slen = 3 && holds t .script [0xab, 0x01, 0xcd, 0x00]) = true := by decide +kernel

/-- P1: the whole legacy call. -/
theorem test_a2s_legacy : yields (exec .a2s (called 0 0 (address genesis))) (fun t =>
    t.status = 0x04 && t.argv = 0 && t.slen = 0x19 &&
    holds t .script ([0x76, 0xa9, 0x14] ++ genesisHash ++ [0x88, 0xac])) = true := by decide +kernel

/-- P3: both flags set, so the witness path; V90: no argument. -/
theorem test_a2s_witness_and_missing :
    yields (exec .a2s (called 1 1 (address segwit))) (fun t =>
      t.status = 0x04 && t.slen = 0x16 && holds t .script ([0x00, 0x14] ++ segwitProgram)) = true ∧
    yields (exec .a2s .reset) (fun t => t.status = 0x05 && t.argv = 0 && t.slen = 0) = true := by decide +kernel

/-- V102. -/
theorem test_clr : exec .clr (strict (called 1 1 (address segwit))) = .next .reset := rfl

/-- V95 and V100. -/
theorem test_illegal : yields (step (pending 0x000 0x11)) (fun t => t.status = 0x07 && t.cmd = 0x11 && t.argv = 0) = true := by
  decide +kernel

/-- P8: a write above the capacity is ignored, the capacity itself is legal. -/
theorem test_alen_write :
    yields (step (pending 0x004 129)) (fun t => t.alen = 0 && t.argv = 0) = true ∧
    yields (step (pending 0x004 128)) (fun t => t.alen = 128 && t.argv = 1) = true := by decide +kernel

/-- AMAX = 255 takes a length of 200, AMAX = 64 refuses 65 (R29, spec/00_scope.md R5). -/
theorem test_alen_write_other_builds :
    yields (step (inBuild 255 true (pending 0x004 200))) (fun t => t.alen = 200) = true ∧
    yields (step (inBuild 64 true (pending 0x004 65))) (fun t => t.alen = 0) = true := by decide +kernel

/-- Without the strict-mode unit 0x08 is illegal and CTRL stays 0 (spec/00_scope.md R7). -/
theorem test_no_strict_unit :
    yields (step (inBuild 128 false (pending 0x000 0x08))) (fun t => t.status = 0x07) = true ∧
    yields (step (inBuild 128 false (pending 0x002 0x01))) (fun t => t.ctrl = 0) = true := by decide +kernel

/-- P8: a D5 cell keeps five bits. -/
theorem test_d5_write : yields (step (pending 0x180 0xff)) (fun t => hostRead t 0x180 = 0x1f) = true := by decide +kernel

/-! ## Witnesses: for each statement with hypotheses, values that meet them -/

theorem witness_DecodeAndEncodeAgree :
    Instr.wellFormed .chk32 = true ∧ decode [0x09, 0x01] = .ok (.clr, [0x01]) := by decide

theorem witness_IllegalCommandByteOnlyReportsIllegalCmd :
    decodeByte 0x00 = none ∧ decodeByte 0x0A = none ∧ decodeByte 0x0F = none ∧ decodeByte 0x10 = none ∧
    decodeByte 0xFF = none ∧ decodeByteFor (inBuild 128 false).build.hasStrict 0x08 = none ∧
    decodeByteFor State.reset.build.hasStrict 0x11 = none := by decide

theorem witness_RegisterMapAndOffsetsAgree :
    Loc.wellFormed .spec (.cell .d5 119) = true ∧ Loc.wellFormed .spec (.chkres 3) = true ∧
    locate .spec 0x1F7 = some (.cell .d5 119) ∧ locate .spec 0x08C = some (.cell .script 76) ∧
    Loc.wellFormed ⟨64, true⟩ (.cell .d5 55) = true ∧ Loc.wellFormed ⟨255, true⟩ (.cell .abuf 127) = true ∧
    locate ⟨255, true⟩ 0x17F = some (.cell .abuf 127) := by decide

theorem witness_HostOperationTriplesRoundTrip : Access.ofTriple (true, 0x1FF, some 0xFF) = some (.write 0x1FF 0xFF) ∧
    Access.ofTriple (false, 0x000, none) = some (.read 0x000) := by decide

theorem witness_ReverseTablesInvertTheirCharsets :
    b58val 0x7A = some 57 ∧ b32val 0x6C = some 31 ∧ b32val 0x4C = some 31 ∧ (0x80#8 ≤ 0x80#8) ∧
    (0x41#8 ≤ 0x5A#8 ∧ 0x5A#8 ≤ 0x5A#8) ∧ (0x30#8 ∈ charCodes ['0', 'I', 'O', 'l']) ∧
    (0x31#8 ∈ charCodes ['1', 'b', 'i', 'o']) := by decide

theorem witness_StepRunsTheDecodedCommand :
    (pending 0x000 0x09).bus = .access (.write 0x000 0x09) :: [] ∧ decode [0x09] = .ok (.clr, []) ∧ 9 < 256 ∧
    decodeTableWord 8 9 = some .clr ∧ Instr.wellFormedFor (pending 0x000 0x09).build.hasStrict .clr = true ∧
    Instr.wellFormedFor (pending 0x000 0x08).build.hasStrict .chk32 = true ∧
    (pending 0x1FF 0x55).bus = .access (.write 0x1FF 0x55) :: [] := by decide

theorem witness_IdleBlockKeepsItsState : State.reset.bus = [] := rfl

theorem witness_ClrAndResetRestoreTheResetState : (strict { State.reset with bus := [.reset] }).bus = .reset :: [] := rfl

theorem witness_HostReadReturnsAByteAndChangesNothing :
    State.bus { State.reset with bus := [.access (.read 0x013)] } = .access (.read 0x013) :: [] := rfl

theorem witness_HostReadValuesFollowTheMap :
    State.reset.build.AMAX = 128 ∧ 24 < 25 ∧ 76 < 77 ∧ 74 < 75 ∧ 127 < 128 ∧ 119 < 120 ∧
    (∀ off ∈ [0x00D#9, 0x00F, 0x014, 0x01F, 0x039, 0x03F, 0x08D, 0x08F, 0x0DB, 0x0FF, 0x1F8, 0x1FF],
      reservedOffset off) ∧
    ∀ off ∈ [0x00C#9, 0x010, 0x013, 0x020, 0x038, 0x040, 0x08C, 0x090, 0x0DA, 0x100, 0x1F7], ¬ reservedOffset off := by
  decide +kernel

theorem witness_ControlAndFlagWritesKeepBitZero :
    (pending 0x002 0xFF).bus = .access (.write 0x002 0xFF) :: [] ∧
    (pending 0x005 0xFE).bus = .access (.write 0x005 0xFE) :: [] ∧
    (pending 0x006 0x01).bus = .access (.write 0x006 0x01) :: [] := by decide

theorem witness_LengthWritesAboveCapacityAreIgnored :
    (pending 0x004 128).bus = .access (.write 0x004 128) :: [] ∧ (pending 0x009 121).bus = .access (.write 0x009 121) :: [] ∧
    (pending 0x00A 75).bus = .access (.write 0x00A 75) :: [] ∧ State.reset.build.AMAX = 128 ∧
    (pending 0x008 0xFF).bus = .access (.write 0x008 0xFF) :: [] := by
  decide

theorem witness_CellWriteStoresOneCell :
    Buffer.d5 ≠ .script ∧ 119 < Buffer.d5.reach State.reset.build ∧ 127 < Buffer.d5.reach (inBuild 255 true).build ∧
    (pending 0x1F7 0xFF).bus = .access (.write (Loc.cell .d5 119).offset 0xFF) :: [] ∧
    Buffer.p58 ≠ .script ∧ 0 < Buffer.p58.reach State.reset.build ∧
    (pending 0x020 0xFF).bus = .access (.write (Loc.cell .p58 0).offset 0xFF) :: [] := by decide

theorem witness_ReservedAndReadOnlyWritesChangeNothing :
    0x013 ∈ [0x001#9, 0x003, 0x007, 0x00B, 0x00C, 0x010, 0x011, 0x012, 0x013] ∧ (0x040#9 ≤ 0x08C ∧ 0x08C#9 ≤ 0x08C) ∧
    Build.spec.AMAX = 128 ∧ reservedOffset 0x1FF ∧ locate State.reset.build 0x1FF = none ∧
    locate (inBuild 64 true).build 0x140 = none := by decide

theorem witness_LimbMultiplyAddIsExact : (57#6).toNat ≤ 57 := by decide

theorem witness_LimbsHoldTheValueModulo2Pow224 :
    b58digits (ascii "zz") = some [57, 57] ∧ b58digits [] = some [] := by decide +kernel

theorem witness_B58decStoresTheValueModulo2Pow200 :
    b58digits (inputString (strict (address "zz"))) = some [57, 57] ∧
    (strictOn (strict (address "zz")) = true → b58value [57, 57] < 2 ^ 200) ∧
    b58digits (inputString (address "zz")) = some [57, 57] ∧ strictOn (address "zz") = false := by decide +kernel

theorem witness_B58decStrictRejectsInvalidOrTooWide :
    strictOn (strict (address "0")) = true ∧ b58digits (inputString (strict (address "0"))) = none ∧
    strictOn (strict (address "zzzzzzzzzzzzzzzzzzzzzzzzzzzzzzzzzzz")) = true ∧
    b58digits (inputString (strict (address "zzzzzzzzzzzzzzzzzzzzzzzzzzzzzzzzzzz"))) = some (List.replicate 35 57) ∧
    2 ^ 200 ≤ b58value (List.replicate 35 57) := by decide +kernel

theorem witness_B58decPermissiveInvalidGivesTheFreePayload :
    strictOn (address "0") = false ∧ ∃ c ∈ inputString (address "0"), b58val c = none := by decide +kernel

theorem witness_B58decRoundTripsEveryPayload :
    (List.replicate 23 0#8 ++ [0x0d, 0x23]).length = 25 ∧ b58digits (inputString (address "zz")) = some [57, 57] ∧
    b58value [57, 57] = bigEndianValue (List.replicate 23 0#8 ++ [0x0d, 0x23]) := by decide +kernel

theorem witness_RegroupFollowsTheBitStream :
    4 < 5 * [1#5, 2, 3, 4, 5, 6, 7, 8].length / 8 ∧ 7 < 8 := by decide

theorem witness_RegrpRegroupsD5IntoProg :
    State.reset.d5len.toNat ≤ State.reset.build.DMAX ∧
    (State.d5len { State.reset with d5len := 120 }).toNat ≤ State.reset.build.DMAX := by decide

theorem witness_FramingFindsTheLastOne :
    separator (ascii "a1b1qpzry9x8ghjdl6k") = some 3 ∧ framing (ascii "1qqqqqqq") = some 0 ∧
    framing (ascii "1qqqqqq") = none ∧ 0 < dataLength (ascii "1qqqqqqq") 0 := by decide +kernel

theorem witness_VersionOpcodeIsZeroOrOffset :
    (31#5 ≠ 0) ∧ (16#5 ≠ 0) ∧ (16#5).toNat ≤ 16 ∧ framing (ascii "a1sllllt9n6qv") = some 1 ∧
    lookupAll b32val (usedData (ascii "a1sllllt9n6qv") 1) = some (16 :: [31, 31, 31, 31]) := by decide +kernel

theorem witness_B32decDecodesAFramedValidString :
    strictOn (address "a1sllllt9n6qv") = false ∧ framing (inputString (address "a1sllllt9n6qv")) = some 1 ∧
    lookupAll b32val (usedData (inputString (address "a1sllllt9n6qv")) 1) = some (16 :: [31, 31, 31, 31]) ∧
    strictOn (address "1qqqqqqq") = false ∧ framing (inputString (address "1qqqqqqq")) = some 0 ∧
    lookupAll b32val (usedData (inputString (address "1qqqqqqq")) 0) = some (0 :: []) := by decide +kernel

theorem witness_B32decUnframedGivesTwoFreeBytes :
    strictOn (address "1qqqqqq") = false ∧ framing (inputString (address "1qqqqqq")) = none := by decide +kernel

theorem witness_B32decInvalidCharacterKeepsTheLengths :
    strictOn (address "a1bqqqqqq") = false ∧ framing (inputString (address "a1bqqqqqq")) = some 1 ∧
    ∃ c ∈ usedData (inputString (address "a1bqqqqqq")) 1, b32val c = none := by decide +kernel

theorem witness_B32decStrictRejectsWhatTheValidatorRejects :
    strictOn (strict (address "a1qqqqqqq")) = true ∧
    (validate (inputString (strict (address "a1qqqqqqq")))).sumOk = false := by decide +kernel

theorem witness_B32decStrictAcceptsLikePermissive :
    strictOn (strict (address "a1q3g6mn3")) = true ∧
    (validate (inputString (strict (address "a1q3g6mn3")))).sumOk = true := by decide +kernel

theorem witness_PassingValidationImpliesDecodable : (validate (ascii "a1q3g6mn3")).sumOk = true := by decide +kernel

theorem witness_Chk32ReportsFrameCharsetAndSum :
    framing (inputString (address "1")) = none ∧ framing (inputString (address "1qqqqqqq")) = some 0 ∧
    framing (inputString (address "a1qqqqqqb")) = some 1 ∧
    (∃ c ∈ (inputString (address "a1qqqqqqb")).drop 2, b32val c = none) ∧
    framing (inputString (address "a1qqqqqqq")) = some 1 ∧
    (∀ c ∈ (inputString (address "a1qqqqqqq")).drop 2, b32val c ≠ none) := by decide +kernel

theorem witness_PolynomialStepBitByBit :
    29 < 30 ∧ framing (ascii "a1qqqqqqq") = some 1 ∧
    (∀ c ∈ (ascii "a1qqqqqqq").drop 2, b32val c ≠ none) := by decide +kernel

theorem witness_ValidatorDetectsOneChangedDataCharacter :
    separator (ascii "a1" ++ 0x71 :: ascii "3g6mn3") = some 1 ∧ 1 < (ascii "a1").length ∧ (0x70#8 ≠ 0x31) ∧
    b32val 0x71 ≠ b32val 0x70 ∧ (validate (ascii "a1" ++ 0x71 :: ascii "3g6mn3")).sumOk = true := by decide +kernel

theorem witness_RegrpAfterB32decChangesNothing :
    strictOn (address "a1sllllt9n6qv") = false ∧ framing (inputString (address "a1sllllt9n6qv")) = some 1 ∧
    lookupAll b32val (usedData (inputString (address "a1sllllt9n6qv")) 1) = some [16, 31, 31, 31, 31] ∧
    strictOn (strict (address "a1q3g6mn3")) = true ∧ framing (inputString (strict (address "a1q3g6mn3"))) = some 1 ∧
    lookupAll b32val (usedData (inputString (strict (address "a1q3g6mn3"))) 1) = some [0] ∧
    (validate (inputString (strict (address "a1q3g6mn3")))).sumOk = true := by decide +kernel

theorem witness_MkpkhAssemblesThePubkeyHashScript :
    State.reset.build.legal ∧ 19 < 20 ∧ 25 ≤ 76 ∧ 76 < State.reset.build.SMAX ∧
    (inBuild 45 false).build.legal := by decide

theorem witness_MkshAssemblesTheScriptHashScript :
    State.reset.build.legal ∧ 19 < 20 ∧ 23 ≤ 23 ∧ 23 < State.reset.build.SMAX := by decide

theorem witness_MkwpAssemblesTheWitnessScript :
    (State.plen { State.reset with plen := 75 }).toNat ≤ State.reset.build.PMAX ∧
    74 < (State.plen { State.reset with plen := 75 }).toNat ∧
    State.reset.plen.toNat ≤ State.reset.build.PMAX ∧ 2 + State.reset.plen.toNat ≤ 2 ∧ 2 < State.reset.build.SMAX := by decide

theorem witness_A2sMissingArgumentProducesNoOutput :
    State.reset.argv.extractLsb' 0 3 ≠ 0b111 ∧ (State.argv { State.reset with argv := 0b011 }).extractLsb' 0 3 ≠ 0b111 := by
  decide

theorem witness_A2sLegacyIsDecodeThenTemplate :
    (called 1 0 .reset).argv.extractLsb' 0 3 = 0b111 ∧ (called 1 0 .reset).isWitness.getLsbD 0 = false ∧
    yields (exec .b58dec (called 1 0 (address "zz"))) (fun t => t.status = 0x04) = true ∧
    yields (exec .b58dec (strict (called 1 0 (address "0")))) (fun t => t.status ≠ 0x04) = true := by decide +kernel

theorem witness_A2sWitnessIsDecodeThenTemplate :
    (called 1 1 .reset).argv.extractLsb' 0 3 = 0b111 ∧ (called 1 1 .reset).isWitness.getLsbD 0 = true ∧
    yields (exec .b32dec (called 1 1 (address "a1q3g6mn3"))) (fun t => t.status = 0x04) = true ∧
    yields (exec .b32dec (strict (called 1 1 (address "a1qqqqqqq")))) (fun t => t.status ≠ 0x04) = true := by
  decide +kernel

theorem witness_A2sLegacyScriptHoldsTheHashOfTheValue :
    (called 0 0 (address "zz")).build.legal ∧
    (called 0 0 (address "zz")).argv.extractLsb' 0 3 = 0b111 ∧ (called 0 0 (address "zz")).isWitness.getLsbD 0 = false ∧
    b58digits (inputString (called 0 0 (address "zz"))) = some [57, 57] ∧
    (strictOn (called 0 0 (address "zz")) = true → b58value [57, 57] < 2 ^ 200) := by decide +kernel

theorem witness_A2sWitnessScriptHoldsTheProgram :
    (called 0 1 (address "a1sllllt9n6qv")).argv.extractLsb' 0 3 = 0b111 ∧
    (called 0 1 (address "a1sllllt9n6qv")).isWitness.getLsbD 0 = true ∧
    strictOn (called 0 1 (address "a1sllllt9n6qv")) = false ∧
    framing (inputString (called 0 1 (address "a1sllllt9n6qv"))) = some 1 ∧
    lookupAll b32val (usedData (inputString (called 0 1 (address "a1sllllt9n6qv"))) 1) = some (16 :: [31, 31, 31, 31]) := by
  decide +kernel

theorem witness_A2sPermissiveCallAlwaysCompletes :
    (called 0 0 (address "0")).argv.extractLsb' 0 3 = 0b111 ∧ (called 0 0 (address "0")).ctrl.getLsbD 0 = false := by
  decide +kernel

theorem witness_A2sWitnessPathIgnoresIsScript :
    (called 0 1 .reset).isWitness.getLsbD 0 = true ∧ (called 0 1 .reset).argv.extractLsb' 0 3 = 0b111 := by decide

theorem witness_A2sTwiceIsA2sOnce :
    Memory.wf (called 0 0 (address "zz")).mem ∧ (called 0 0 (address "zz")).argv.extractLsb' 0 3 = 0b111 := by
  decide +kernel

/-- Two different states with the same inputs: one holds an old result. -/
theorem witness_A2sResultDependsOnlyOnItsInputs :
    State.build { called 1 0 (address "zz") with wop := 0x51, plen := 3 } = (called 1 0 (address "zz")).build ∧
    inputString { called 1 0 (address "zz") with wop := 0x51, plen := 3 } = inputString (called 1 0 (address "zz")) ∧
    (State.ctrl { called 1 0 (address "zz") with wop := 0x51, plen := 3 }).getLsbD 0 =
      (called 1 0 (address "zz")).ctrl.getLsbD 0 ∧
    (State.argv { called 1 0 (address "zz") with wop := 0x51, plen := 3 }).extractLsb' 0 3 =
      (called 1 0 (address "zz")).argv.extractLsb' 0 3 ∧
    (called 1 0 (address "zz")).argv.extractLsb' 0 3 = 0b111 ∧
    (State.isWitness { called 1 0 (address "zz") with wop := 0x51, plen := 3 }).getLsbD 0 =
      (called 1 0 (address "zz")).isWitness.getLsbD 0 ∧
    (State.isScript { called 1 0 (address "zz") with wop := 0x51, plen := 3 }).getLsbD 0 =
      (called 1 0 (address "zz")).isScript.getLsbD 0 := by decide +kernel

theorem witness_CallLoadsTheArgumentsAndRunsA2s :
    (ascii "zz").length ≤ State.reset.build.AMAX ∧ (ascii "zz").length ≤ 127 ∧ 127 < State.reset.build.AMAX ∧
    State.bus { State.reset with bus := programInputs [.call (ascii "zz") 1 0] } =
      programInputs [.call (ascii "zz") 1 0] ++ [] ∧
    (List.replicate 128 0x31#8).length ≤ State.reset.build.AMAX ∧ (List.replicate 128 0x31#8).length ≤ 128 := by
  decide +kernel

/-- For the frames over all commands: a command other than CLR that answers a next state. -/
theorem witness_CommandsStoreOnlyInTheirBuffers :
    Instr.a2s ≠ .clr ∧ yields (exec .a2s (called 0 1 (address "a1q3g6mn3"))) (fun _ => true) = true := by decide +kernel

theorem witness_CommandsWriteOnlyTheirRegisters :
    Instr.mkpkh ≠ .clr ∧ yields (exec .mkpkh .reset) (fun _ => true) = true ∧ Instr.mkpkh ≠ .a2s ∧
    decodesBech32 .mkpkh .reset = false ∧ Instr.mkpkh ≠ .regrp ∧ Instr.mkpkh ≠ .chk32 ∧
    Instr.b58dec ∉ [.mkpkh, .mksh, .mkwp, .a2s] := by decide +kernel

theorem witness_CommandsZeroFillAboveTheNewLength :
    yields (exec .a2s (called 0 1 (address "a1q3g6mn3"))) (fun t =>
      t.d5len.toNat ≤ 119 && t.plen.toNat ≤ 74 && t.slen.toNat ≤ 76) = true ∧
    decodesBech32 .a2s (called 0 1 (address "a1q3g6mn3")) = true ∧ Instr.a2s ∈ [.mkpkh, .mksh, .mkwp, .a2s] := by
  decide +kernel

theorem witness_CommandsEndInOneOutcome : Instr.a2s ≠ .clr ∧ Instr.chk32 ≠ .clr := by decide

theorem witness_OnlyNamedInputsClearArgvAndDoneOrChangeCtrl :
    yields (step { pending 0x000 0x05 with status := 0x04 }) (fun _ => true) = true ∧
    (State.status { pending 0x000 0x05 with status := 0x04 }).getLsbD 2 = true := by decide +kernel

theorem witness_OnlyHostResetAndClrChangeAbuf :
    127 < State.reset.build.AMAX ∧ yields (step (pending 0x17F 0x55)) (fun t => readCell t .abuf 127 = 0x55) = true := by
  decide +kernel

theorem witness_SizesFollowAmaxAndNoStepChangesTheBuild :
    8 ≤ 8 ∧ 255 ≤ 255 ∧
    yields (step (inBuild 200 false (pending 0x000 0x09))) (fun t => t.build = ⟨200, false⟩) = true := by
  decide +kernel

theorem witness_EveryStepKeepsTheInvariant : State.reset.Inv ∧ yields (step .reset) (fun t => t = .reset) = true :=
  ⟨⟨by decide, ⟨⟨List.Pairwise.nil, by simp⟩, by simp⟩, by decide, by decide, by decide, by decide, by decide⟩,
   by decide +kernel⟩

end Sys2Proof.Tests
end

section
/-! The state after reset, and CLR (spec/10_state.md R49). -/

namespace Sys2Proof.Machine

@[simp] theorem readCell_reset (b : Buffer) (i : Nat) : readCell State.reset b i = 0#8 := by
  rw [readCell, reset_mem, Memory.read_nil]

/-- The narrowed D5 cells and the bytes of CHKRES included. -/
@[simp] theorem readLoc_reset (l : Loc) : readLoc State.reset l = 0#8 := by
  cases l with
  | chkres k => simp [readLoc]
  | cell b i => simp [readLoc]
  | _ => rfl

/-- A reserved offset reads 0x00 in every state (R68); any other reads a location of the reset state. -/
@[simp] theorem hostRead_reset (off : Offset) : hostRead State.reset off = 0#8 := by
  rw [hostRead]
  split
  · exact readLoc_reset _
  · rfl

/-- What `resetBlock` keeps stands outside the block: the build, the pending inputs and the returned bytes. -/
theorem resetBlock_block (s : State) :
    { resetBlock s with build := Build.spec, bus := [], returned := [] } = State.reset := rfl

/-- Settles O1: no cell is listed after reset, so every location reads 0, and CLR is `resetBlock` (R180). -/
theorem resetLeavesEveryRegisterAndCellZero : Obligations.ResetLeavesEveryRegisterAndCellZero :=
  ⟨reset_cmd, reset_status, reset_ctrl, reset_argv, reset_chkst, reset_chkres, reset_alen, reset_isScript,
    reset_isWitness, reset_wver, reset_wop, reset_d5len, reset_plen, reset_slen, readCell_reset, hostRead_reset,
    fun s => ⟨resetBlock s, exec_clr s, resetBlock_block s⟩⟩

end Sys2Proof.Machine
end

section
/-! The opcode map and the illegal command bytes (spec/30_encoding.md R83, R84). -/

namespace Sys2Proof

/-- The illegal bytes are those outside the rows of R83, and the byte of CHK32 in a block without the strict-mode unit
(R7, R84). -/
theorem decodeByteFor_eq_none_iff (hasStrict : Bool) (b : Byte) :
    decodeByteFor hasStrict b = none ↔ b = 0x00 ∨ 0x0A ≤ b ∨ (b = 0x08 ∧ hasStrict = false) := by
  rw [decodeByteFor]
  split
  case h_10 =>
    have hb : b = 0x00 ∨ 0x0A ≤ b := by simp only [imp_false] at *; bv_omega
    simp only [← or_assoc, hb, true_or]
  case h_8 h =>
    obtain rfl : b = 0x08 := BitVec.eq_of_toNat_eq h
    simp
  all_goals simp only [reduceCtorEq, false_iff]; bv_omega

theorem decodeByte_eq_none_iff (b : Byte) : decodeByte b = none ↔ b = 0x00 ∨ 0x0A ≤ b := by
  simp [decodeByte, decodeByteFor_eq_none_iff, Build.spec]

theorem decodeByteFor_false_eq_none_iff (b : Byte) :
    decodeByteFor false b = none ↔ decodeByte b = none ∨ b = 0x08 := by
  simp [decodeByteFor_eq_none_iff, decodeByte_eq_none_iff, or_assoc]

theorem decode_encodeByte (i : Instr) (rest : List Byte) : decode (encodeByte i :: rest) = .ok (i, rest) := by
  cases i <;> rfl

theorem highNibble_ne_zero_iff (b : Byte) : b.extractLsb' 4 4 ≠ 0 ↔ 0x10 ≤ b := by
  have hnibble : (b.extractLsb' 4 4).toNat = b.toNat / 16 := by
    rw [BitVec.extractLsb'_toNat, Nat.shiftRight_eq_div_pow]
    omega
  bv_omega

/-- The three kinds of illegal byte R84 names: the cleared CMD, the rest of the low sixteen, a non-zero high nibble. -/
theorem decodeByte_eq_none_iff_highNibble (b : Byte) :
    decodeByte b = none ↔ b = 0x00 ∨ (0x0A ≤ b ∧ b ≤ 0x0F) ∨ b.extractLsb' 4 4 ≠ 0 := by
  rw [decodeByte_eq_none_iff, highNibble_ne_zero_iff]
  bv_omega

/-- Settles O2: each row is the byte of its command read back, and every byte outside the rows is illegal. -/
theorem opcodeMapHasTheNineRows : Obligations.OpcodeMapHasTheNineRows := by
  refine ⟨decode_encodeByte .a2s [], decode_encodeByte .b58dec [], decode_encodeByte .b32dec [],
    decode_encodeByte .regrp [], decode_encodeByte .mkpkh [], decode_encodeByte .mksh [], decode_encodeByte .mkwp [],
    decode_encodeByte .chk32 [], decode_encodeByte .clr [], fun b hb => ?_⟩
  have hlegal : ¬ (b = 0x00 ∨ 0x0A ≤ b) := by
    rwa [← decodeByte_eq_none_iff, ← ne_eq, Option.ne_none_iff_isSome]
  bv_omega

end Sys2Proof

namespace Sys2Proof.Machine

theorem runCommand_illegal {v : Byte} {s : State} (h : decodeByteFor s.build.hasStrict v = none) :
    runCommand v s = raise .illegalCmd s := by rw [runCommand, h]

/-- The byte is stored in CMD (R81) before the error is raised; nothing else is written (R197). -/
theorem hostWrite_cmd_illegal {v : Byte} {s : State} (h : decodeByteFor s.build.hasStrict v = none) :
    hostWrite Loc.cmd.offset v s = .next { s with cmd := v, status := 0x07 } := by
  rw [hostWrite_cmd, runCommand_illegal (s := { s with cmd := v }) h]
  rfl

/-- Settles O4: the illegal bytes in each build, counted over all 256 bytes, and the port's write of one to CMD. -/
theorem illegalCommandByteOnlyReportsIllegalCmd : Obligations.IllegalCommandByteOnlyReportsIllegalCmd :=
  ⟨decodeByte_eq_none_iff_highNibble, by decide +kernel, decodeByteFor_false_eq_none_iff,
    fun _ _ => hostWrite_cmd_illegal⟩

end Sys2Proof.Machine
end

section
/-! The version opcode of the bech32 decoder and the checksum polynomial (spec/41_bech32.md R125, R134). -/

namespace Sys2Proof.Machine

/-! ## The version opcode -/

@[simp] theorem versionOpcode_zero : versionOpcode 0 = 0x00 := rfl

/-- The addition of R125 does not wrap. -/
theorem versionOpcode_toNat {v : Quint} (h : v ≠ 0) : (versionOpcode v).toNat = v.toNat + 0x50 := by
  rw [versionOpcode, if_neg h]
  bv_omega

/-- The decoder's body on a framed string of valid used characters (R124 to R126). -/
theorem b32body_of_valid (c : Build) {str : List Byte} {sep : Nat} {us : List Quint} (hf : framing str = some sep)
    (hu : lookupAll b32val (usedData str sep) = some us) : b32body c str = decodeValues us := by
  simp only [b32body, hf, hu]

/-- Settles O26: the opcode as a number for each value, and the decoder's body on a valid string. -/
theorem versionOpcodeIsZeroOrOffset : Obligations.VersionOpcodeIsZeroOrOffset := by
  refine ⟨versionOpcode_zero, fun v hv => ?_, fun v hv h16 => ?_, fun c str sep u us hf hu => ?_⟩
  · have hop := versionOpcode_toNat hv
    exact ⟨hop, by bv_omega⟩
  · have hop := versionOpcode_toNat hv
    exact ⟨by bv_omega, by bv_omega⟩
  · rw [b32body_of_valid c hf hu]
    exact ⟨rfl, rfl⟩

/-! ## The checksum polynomial -/

/-- A lookup of valid characters gives values. -/
theorem exists_lookupAll_eq_some {α : Type} {table : Byte → Option α} {cs : List Byte}
    (h : ∀ c ∈ cs, table c ≠ none) : ∃ vs, lookupAll table cs = some vs := by
  rw [← Option.ne_none_iff_exists', ne_eq, lookupAll_eq_none]
  rintro ⟨c, hc, hinv⟩
  exact h c hc hinv

/-- The validator on a string that passes frame and charset (R131 to R135). -/
theorem validate_of_valid {str : List Byte} {sep : Nat} {ws : List Quint} (hf : framing str = some sep)
    (hsep : sep ≠ 0) (hw : lookupAll b32val (dataPart str sep) = some ws) :
    validate str = ⟨true, true, polymod (checkSequence (str.take sep) ws) = checksumConstant,
      polymod (checkSequence (str.take sep) ws)⟩ := by
  simp only [validate, hf, if_neg hsep, hw]

theorem polymod_append_singleton (vs : List Quint) (v : Quint) : polymod (vs ++ [v]) = polyStep (polymod vs) v := by
  rw [polymod, List.foldl_append]
  rfl

theorem getLsbD_xor_ite (b : Bool) (r g : Residue) (j : Nat) :
    (if b then r ^^^ g else r).getLsbD j = (r.getLsbD j ^^ (b && g.getLsbD j)) := by
  cases b <;> simp

/-- The mask of R134 keeps the low 25 bits. -/
theorem getLsbD_lowMask {k : Nat} (h : k < 25) : (0x1ffffff#30).getLsbD k = true := by
  revert k
  decide

/-- POLY shifted left by five with the new value in the low bits (R134), before any GEN is added. -/
theorem getLsbD_shiftIn (p : Residue) (v : Quint) {j : Nat} (hj : j < 30) :
    (((p &&& 0x1ffffff) <<< 5) ^^^ v.setWidth 30).getLsbD j = if j < 5 then v.getLsbD j else p.getLsbD (j - 5) := by
  rw [BitVec.getLsbD_xor, BitVec.getLsbD_shiftLeft, BitVec.getLsbD_and, BitVec.getLsbD_setWidth]
  by_cases h5 : j < 5
  · simp [h5, hj]
  · have hmask := getLsbD_lowMask (k := j - 5) (by omega)
    have hv : v.getLsbD j = false := BitVec.getLsbD_of_ge v j (by omega)
    simp [h5, hj, hmask, hv]

/-- One step of the polynomial, bit by bit: bit i of the five shifted out is bit 25 + i of POLY. -/
theorem getLsbD_polyStep (p : Residue) (v : Quint) {j : Nat} (hj : j < 30) :
    (polyStep p v).getLsbD j =
      ((if j < 5 then v.getLsbD j else p.getLsbD (j - 5)) ^^
        (p.getLsbD 25 && (gen 0).getLsbD j) ^^ (p.getLsbD 26 && (gen 1).getLsbD j) ^^
        (p.getLsbD 27 && (gen 2).getLsbD j) ^^ (p.getLsbD 28 && (gen 3).getLsbD j) ^^
        (p.getLsbD 29 && (gen 4).getLsbD j)) := by
  have hindices : List.finRange 5 = [0, 1, 2, 3, 4] := rfl
  simp only [polyStep, hindices, List.foldl_cons, List.foldl_nil, getLsbD_xor_ite, getLsbD_shiftIn p v hj,
    BitVec.getLsbD_ushiftRight]
  rfl

/-- Settles O34: the residue of a valid string is POLY after its value sequence (R133), and each value is one step. -/
theorem polynomialStepBitByBit : Obligations.PolynomialStepBitByBit := by
  refine ⟨rfl, fun str sep hf hsep hvalid => ?_, fun vs v j hj => ?_⟩
  · obtain ⟨ws, hw⟩ := exists_lookupAll_eq_some hvalid
    have hlen : sep < str.length := by have := (framing_bound hf).2; omega
    exact ⟨_, isValueSequence_checkSequence hlen hw, by rw [validate_of_valid hf (by omega) hw]⟩
  · rw [polymod_append_singleton]
    exact getLsbD_polyStep (polymod vs) v hj

end Sys2Proof.Machine
end

section
/-! REGRP: the regrouped D5 goes to PROG (spec/42_regroup.md R150). -/

namespace Sys2Proof.Machine

/-- The regrouper's input when D5LEN is in range: the low five bits of each of the first D5LEN cells of D5. -/
theorem d5Values_eq_map_range {s : State} (h : s.d5len.toNat ≤ s.build.DMAX) :
    d5Values s = (List.range s.d5len.toNat).map fun i => (readCell s .d5 i).extractLsb' 0 5 := by
  rw [d5Values, cellRange, capacity_d5, Nat.min_eq_left h, Nat.sub_zero, ← List.range_eq_range', List.map_map]
  exact List.map_congr_left fun i _ => BitVec.setWidth_eq_extractLsb' (by decide)

/-- The program of a D5LEN in range has floor(5 × D5LEN / 8) bytes. -/
theorem regroup_d5Values_length {s : State} (h : s.d5len.toNat ≤ s.build.DMAX) :
    (regroup (d5Values s)).length = 5 * s.d5len.toNat / 8 := by
  rw [regroup_length, d5Values_length, Nat.min_eq_left h]

theorem sameExceptIn_setProgram (vs : List Byte) (s : State) : sameExceptIn [.prog] s (setProgram vs s) :=
  sameExceptIn_fillBuffer (List.mem_singleton_self _) vs s

theorem bufferIs_setProgram (vs : List Byte) (s : State) : bufferIs (setProgram vs s) .prog vs :=
  bufferIs_of_mem (bufferIs_fillBuffer .prog vs s) rfl rfl

/-- A command that only writes the program and completes writes PLEN, STATUS and the cells of PROG. -/
theorem setOutcome_ok_setProgram (vs : List Byte) (s : State) :
    setOutcome .ok (setProgram vs s) =
      { s with plen := BitVec.ofNat 8 vs.length, status := 0x04, mem := (fillBuffer .prog vs s).mem } := rfl

/-- Settles O24: REGRP completes after `setProgram` of the regrouped values of D5 (R150, R151). -/
theorem regrpRegroupsD5IntoProg : Obligations.RegrpRegroupsD5IntoProg := by
  refine ⟨rfl, fun s h => ⟨_, exec_regrp s, ?_, ?_, ?_⟩⟩
  · exact sameExceptIn_setProgram _ s
  · rw [setOutcome_ok_setProgram, regroup_d5Values_length h]
  · rw [← d5Values_eq_map_range h]
    exact bufferIs_of_mem (bufferIs_setProgram _ s) rfl rfl

end Sys2Proof.Machine
end

section
/-! The script assembler: the hash of P58 between the fixed bytes of a template goes to SCRIPT
(spec/43_script.md R160, R161). -/

namespace Sys2Proof.Machine

theorem hash20_getD (s : State) {i : Nat} (h : i < 20) : (hash20 s).getD i 0 = readCell s .p58 (1 + i) :=
  cellRange_getD s .p58 1 21 i (by rw [capacity_p58]; omega)

/-! ## Writing SCRIPT -/

theorem sameExceptIn_setScript (vs : List Byte) (s : State) : sameExceptIn [.script] s (setScript vs s) :=
  sameExceptIn_fillBuffer (List.mem_singleton_self _) vs s

theorem bufferIs_setScript (vs : List Byte) (s : State) : bufferIs (setScript vs s) .script vs :=
  bufferIs_of_mem (bufferIs_fillBuffer .script vs s) rfl rfl

/-- A command that only writes the script and completes writes SLEN, STATUS and the cells of SCRIPT. -/
theorem setOutcome_ok_setScript (vs : List Byte) (s : State) :
    setOutcome .ok (setScript vs s) =
      { s with slen := BitVec.ofNat 8 vs.length, status := 0x04, mem := (setScript vs s).mem } := rfl

/-! ## The cells of a template -/

section
variable {t : State} {b : Buffer} {pre mid post : List Byte}

theorem readCell_template_before (h : bufferIs t b (pre ++ mid ++ post)) {i : Nat} (hi : i < pre.length)
    (hc : i < b.capacity t.build) : readCell t b i = pre.getD i 0 := by
  rw [h i hc, List.append_assoc, List.getD_append _ _ _ _ hi]

/-- The bytes between the fixed bytes are a verbatim copy. -/
theorem readCell_template_middle (h : bufferIs t b (pre ++ mid ++ post)) {i : Nat} (hi : i < mid.length)
    (hc : pre.length + i < b.capacity t.build) : readCell t b (pre.length + i) = mid.getD i 0 := by
  rw [h _ hc, List.append_assoc, List.getD_append_right _ _ _ _ (Nat.le_add_right ..), Nat.add_sub_cancel_left,
    List.getD_append _ _ _ _ hi]

/-- The last fixed bytes start where the copied ones end, with zero above them (R43). -/
theorem readCell_template_after (h : bufferIs t b (pre ++ mid ++ post)) {i n : Nat}
    (hn : pre.length + mid.length = n) (hc : n + i < b.capacity t.build) :
    readCell t b (n + i) = post.getD i 0 := by
  subst hn
  rw [h _ hc, ← List.length_append, List.getD_append_right _ _ _ _ (Nat.le_add_right ..), Nat.add_sub_cancel_left]

end

/-- SCRIPT holds the hash of a state between the fixed bytes of a template. -/
theorem readCell_hashTemplate {s t : State} {pre post : List Byte}
    (h : bufferIs t .script (pre ++ hash20 s ++ post)) (hsize : pre.length + 20 + post.length ≤ t.build.SMAX) :
    (∀ i < pre.length, readCell t .script i = pre.getD i 0) ∧
    (∀ i < 20, readCell t .script (pre.length + i) = readCell s .p58 (1 + i)) ∧
    (∀ i < post.length, readCell t .script (pre.length + 20 + i) = post.getD i 0) ∧
    ∀ i, pre.length + 20 + post.length ≤ i → i < t.build.SMAX → readCell t .script i = 0 := by
  have hlen : (hash20 s).length = 20 := hash20_length s
  refine ⟨fun i hi => ?_, fun i hi => ?_, fun i hi => ?_, fun i hlo hhi => ?_⟩
  · exact readCell_template_before h hi (by rw [capacity_script]; omega)
  · rw [readCell_template_middle h (by omega) (by rw [capacity_script]; omega), hash20_getD s hi]
  · exact readCell_template_after h (by rw [hlen]) (by rw [capacity_script]; omega)
  · rw [h i hhi]
    exact List.getD_eq_default _ _ (by simp only [List.length_append]; omega)

theorem readCell_pubkeyHashScript {s t : State} (h : bufferIs t .script (pubkeyHashScript (hash20 s)))
    (hsize : 25 ≤ t.build.SMAX) :
    readCell t .script 0 = 0x76 ∧ readCell t .script 1 = 0xa9 ∧ readCell t .script 2 = 0x14 ∧
    (∀ i < 20, readCell t .script (3 + i) = readCell s .p58 (1 + i)) ∧
    readCell t .script 23 = 0x88 ∧ readCell t .script 24 = 0xac ∧
    ∀ i, 25 ≤ i → i < t.build.SMAX → readCell t .script i = 0 := by
  obtain ⟨hpre, hhash, hpost, hzero⟩ := readCell_hashTemplate h hsize
  exact ⟨hpre 0 (by decide), hpre 1 (by decide), hpre 2 (by decide), hhash, hpost 0 (by decide), hpost 1 (by decide),
    hzero⟩

theorem readCell_scriptHashScript {s t : State} (h : bufferIs t .script (scriptHashScript (hash20 s)))
    (hsize : 23 ≤ t.build.SMAX) :
    readCell t .script 0 = 0xa9 ∧ readCell t .script 1 = 0x14 ∧
    (∀ i < 20, readCell t .script (2 + i) = readCell s .p58 (1 + i)) ∧
    readCell t .script 22 = 0x87 ∧ ∀ i, 23 ≤ i → i < t.build.SMAX → readCell t .script i = 0 := by
  obtain ⟨hpre, hhash, hpost, hzero⟩ := readCell_hashTemplate h hsize
  exact ⟨hpre 0 (by decide), hpre 1 (by decide), hhash, hpost 0 (by decide), hzero⟩

/-! ## MKPKH and MKSH -/

/-- Settles O37: MKPKH completes after `setScript` of the public-key-hash template (R160). -/
theorem mkpkhAssemblesThePubkeyHashScript : Obligations.MkpkhAssemblesThePubkeyHashScript := by
  refine ⟨rfl, fun s hlegal => ⟨_, exec_mkpkh s, sameExceptIn_setScript _ s, ?_, ?_⟩⟩
  · rw [setOutcome_ok_setScript, pubkeyHashScript_length]
    rfl
  · exact readCell_pubkeyHashScript (bufferIs_setScript _ s) hlegal.2

/-- Settles O38: MKSH completes after `setScript` of the script-hash template (R161); its 23 bytes fit where the 25 of
MKPKH do. -/
theorem mkshAssemblesTheScriptHashScript : Obligations.MkshAssemblesTheScriptHashScript := by
  refine ⟨rfl, fun s hlegal => ⟨_, exec_mksh s, sameExceptIn_setScript _ s, ?_, ?_⟩⟩
  · rw [setOutcome_ok_setScript, scriptHashScript_length]
    rfl
  · exact readCell_scriptHashScript (bufferIs_setScript _ s) (Nat.le_trans (by decide) hlegal.2)

end Sys2Proof.Machine
end

section
/-! A2S without its three arguments (spec/60_exceptions.md R195). -/

namespace Sys2Proof.Machine

theorem runCommand_legal {v : Byte} {i : Instr} {s : State} (h : decodeByteFor s.build.hasStrict v = some i) :
    runCommand v s = exec i s := by rw [runCommand, h]

/-- A legal byte is stored in CMD, then its command runs (R81). -/
theorem hostWrite_cmd_legal {v : Byte} {i : Instr} {s : State} (h : decodeByteFor s.build.hasStrict v = some i) :
    hostWrite Loc.cmd.offset v s = exec i { s with cmd := v } := by
  rw [hostWrite_cmd, runCommand_legal (s := { s with cmd := v }) h]

theorem argumentsSupplied_eq_false_iff (argv : Byte) :
    argumentsSupplied argv = false ↔ argv.extractLsb' 0 3 ≠ 0b111 := decide_eq_false_iff_not

/-- Raising MISSING_ARG writes SLEN, ARGV, STATUS and the cells of SCRIPT. -/
theorem setOutcome_missingArg_clearArgv_setScript_nil (s : State) :
    setOutcome .missingArg (clearArgv (setScript [] s)) =
      { s with slen := 0, argv := 0, status := 0x05, mem := (setScript [] s).mem } := rfl

/-- Settles O40: the port runs A2S, which fails the argument check (R171) and only empties SCRIPT, clears ARGV and
reports the error. -/
theorem a2sMissingArgumentProducesNoOutput : Obligations.A2sMissingArgumentProducesNoOutput := by
  intro s hargv
  have hexec := exec_a2s_missing (s := { s with cmd := 0x01 }) ((argumentsSupplied_eq_false_iff _).2 hargv)
  refine ⟨_, (hostWrite_cmd_legal rfl).trans hexec, hexec, ?_, ?_, ?_⟩
  · exact sameExceptIn_setScript [] { s with cmd := 0x01 }
  · exact setOutcome_missingArg_clearArgv_setScript_nil _
  · exact bufferIs_of_mem (bufferIs_setScript [] { s with cmd := 0x01 }) rfl rfl

end Sys2Proof.Machine
end

section
/-! The register map and the codes of the block: commands, host operations, characters (spec/20_memory.md R62,
spec/30_encoding.md R80 to R86, spec/10_state.md R46, R47). -/

namespace Sys2Proof

/-! ## The register map -/

/-- The cells at an offset are those the host can name, each at its buffer's first offset plus its index (R62). -/
theorem cellAtOffset_eq_some_iff {c : Build} {n : Nat} {l : Loc} :
    cellAtOffset c n = some l ↔ ∃ b i, l = .cell b i ∧ n = b.firstOffset + i ∧ i < b.reach c := by
  constructor
  · intro h
    rw [cellAtOffset] at h
    split at h
    case h_1 b hb =>
      have hwin : b.firstOffset ≤ n ∧ n < b.firstOffset + b.window := by simpa using List.find?_some hb
      split at h
      case isTrue hreach =>
        injection h with h
        exact ⟨b, n - b.firstOffset, h.symm, by omega, hreach⟩
      case isFalse => simp at h
    case h_2 => simp at h
  · rintro ⟨b, i, rfl, rfl, hi⟩
    rw [cellAtOffset, Machine.bufferAtOffset_cell (Machine.lt_reach.1 hi).2]
    simp [hi]

/-- The number of a well-formed location is an offset of the register space. -/
theorem offsetNat_lt {c : Build} {l : Loc} (h : l.wellFormed c = true) : l.offsetNat < 512 := by
  cases l with
  | cell b i =>
    have hwin := (Machine.lt_reach.1 (of_decide_eq_true h)).2
    cases b <;> simp only [Loc.offsetNat, Buffer.firstOffset, Buffer.window] at hwin ⊢ <;> omega
  | chkres k => simp only [Loc.offsetNat]; omega
  | _ => decide

theorem offset_toNat {c : Build} {l : Loc} (h : l.wellFormed c = true) : l.offset.toNat = l.offsetNat := by
  rw [Loc.offset, BitVec.toNat_ofNat, Nat.mod_eq_of_lt (offsetNat_lt h)]

theorem locate_offset {c : Build} {l : Loc} (h : l.wellFormed c = true) : locate c l.offset = some l := by
  cases l with
  | cell b i => exact Machine.locate_offset_cell (of_decide_eq_true h)
  | chkres k => match k with | 0 | 1 | 2 | 3 => rfl
  | _ => rfl

theorem wellFormed_of_locate {c : Build} {o : Offset} {l : Loc} (h : locate c o = some l) :
    l.wellFormed c = true ∧ l.offset = o := by
  rw [locate] at h
  split at h
  case h_18 =>
    obtain ⟨b, i, rfl, hn, hi⟩ := cellAtOffset_eq_some_iff.1 h
    exact ⟨decide_eq_true hi, by rw [Loc.offset, Loc.offsetNat, ← hn, BitVec.ofNat_toNat, BitVec.setWidth_eq]⟩
  all_goals
    rename_i ho
    injection h with h
    subst h
    exact ⟨rfl, BitVec.eq_of_toNat_eq ho.symm⟩

/-- Settles O5: each location is found at its offset, and what is found at an offset has that offset. -/
theorem registerMapAndOffsetsAgree : Obligations.RegisterMapAndOffsetsAgree :=
  ⟨fun _ _ h => ⟨locate_offset h, offset_toNat h⟩, fun _ _ _ => wellFormed_of_locate⟩

theorem cellAtOffset_eq_none_iff {c : Build} {n : Nat} :
    cellAtOffset c n = none ↔ ∀ b : Buffer, ¬ (b.firstOffset ≤ n ∧ n < b.firstOffset + b.reach c) := by
  simp only [Option.eq_none_iff_forall_ne_some, ne_eq, cellAtOffset_eq_some_iff]
  constructor
  · rintro h b ⟨hlo, hhi⟩
    exact h _ ⟨b, n - b.firstOffset, rfl, by omega, by omega⟩
  · rintro h _ ⟨b, i, rfl, rfl, hi⟩
    exact h b ⟨by omega, by omega⟩

/-- The reserved offsets of a build: no register has the number, and no cell the host can name (R68). -/
theorem locate_eq_none_iff {c : Build} {o : Offset} :
    locate c o = none ↔ (0x00D ≤ o.toNat ∧ ¬ (0x010 ≤ o.toNat ∧ o.toNat ≤ 0x013)) ∧
      ∀ b : Buffer, ¬ (b.firstOffset ≤ o.toNat ∧ o.toNat < b.firstOffset + b.reach c) := by
  rw [locate]
  split
  case h_18 =>
    rw [cellAtOffset_eq_none_iff, iff_and_self]
    intro _
    simp only [imp_false] at *
    omega
  all_goals
    rw [iff_false_left (by simp)]
    rintro ⟨hregister, -⟩
    omega

theorem forall_buffer {p : Buffer → Prop} : (∀ b, p b) ↔ p .p58 ∧ p .script ∧ p .prog ∧ p .abuf ∧ p .d5 :=
  ⟨fun h => ⟨h _, h _, h _, h _, h _⟩, fun ⟨h1, h2, h3, h4, h5⟩ b => by cases b <;> assumption⟩

/-- For AMAX = 128 the reserved offsets are those the map of R62 calls reserved. -/
theorem locate_eq_none_iff_reservedOffset {c : Build} (h : c.AMAX = 128) (o : Offset) :
    locate c o = none ↔ Machine.reservedOffset o := by
  have hsizes := Machine.build_sizes c
  have ho := o.isLt
  simp only [locate_eq_none_iff, forall_buffer, Machine.reach_eq_capacity (by omega : c.AMAX ≤ 128),
    Machine.capacity_p58, Machine.capacity_script, Machine.capacity_prog, Machine.capacity_abuf,
    Machine.capacity_d5, Buffer.firstOffset, Machine.reservedOffset, BitVec.le_def, BitVec.ofNat_eq_ofNat,
    BitVec.reduceToNat]
  omega

/-- The offsets of SCRIPT name its cells, as far as the build has them, and nothing else. -/
theorem locate_script_window (c : Build) {o : Offset} (h : 0x040 ≤ o ∧ o ≤ 0x08C) :
    locate c o = none ∨ ∃ i, locate c o = some (.cell .script i) := by
  cases hl : locate c o with
  | none => exact .inl rfl
  | some l =>
    obtain ⟨hwf, rfl⟩ := wellFormed_of_locate hl
    simp only [BitVec.le_def, BitVec.ofNat_eq_ofNat, BitVec.reduceToNat, offset_toNat hwf] at h
    cases l with
    | cell b i =>
      have hwin := (Machine.lt_reach.1 (of_decide_eq_true hwf)).2
      cases b with
      | script => exact .inr ⟨i, rfl⟩
      | _ => simp only [Loc.offsetNat, Buffer.firstOffset, Buffer.window] at h hwin; omega
    | _ => simp only [Loc.offsetNat] at h; omega

namespace Machine

/-- Settles O16: reserved offsets have no location, and writing a read-only one gives the state back (R68). -/
theorem reservedAndReadOnlyWritesChangeNothing : Obligations.ReservedAndReadOnlyWritesChangeNothing := by
  refine ⟨fun c => locate_eq_none_iff_reservedOffset, fun s off v hoff => ?_, fun s off h => by rw [hostRead, h]⟩
  rcases hoff with hreg | hscript | hnone
  · simp only [List.mem_cons, List.not_mem_nil, or_false] at hreg
    rcases hreg with rfl | rfl | rfl | rfl | rfl | rfl | rfl | rfl | rfl <;> rfl
  · rcases locate_script_window s.build hscript with hnone | ⟨i, hcell⟩
    · exact hostWrite_reserved hnone v
    · exact hostWrite_of_ne_cmd hcell nofun v
  · exact hostWrite_reserved hnone v

/-- CHKRES as bytes, least significant first; the top byte has six bits of it (R28). -/
theorem setWidth_ushiftRight_chkres (r : Residue) (n : Nat) : (r >>> n).setWidth 8 = r.extractLsb' n 8 := by
  ext i hi
  simp

theorem extractLsb'_top_chkres (r : Residue) : r.extractLsb' 24 8 = (r.extractLsb' 24 6).setWidth 8 := by
  ext i hi
  rw [BitVec.getElem_extractLsb', BitVec.getElem_setWidth, BitVec.getLsbD_extractLsb']
  by_cases h6 : i < 6
  · simp [h6]
  · simp [h6, BitVec.getLsbD_of_ge r (24 + i) (by omega)]

theorem hostRead_chkres (s : State) (k : Fin 4) :
    hostRead s (Loc.chkres k).offset = s.chkres.extractLsb' (8 * k) 8 := by
  rw [hostRead, locate_offset rfl]
  exact setWidth_ushiftRight_chkres s.chkres (8 * k)

/-- Settles O12: each register is read at its own offset by computation, each cell by `hostRead_cell`. -/
theorem hostReadValuesFollowTheMap : Obligations.HostReadValuesFollowTheMap := by
  intro s h
  have hsizes := build_sizes s.build
  have hreach : ∀ b : Buffer, b.reach s.build = b.capacity s.build := reach_eq_capacity (by omega)
  have hcell : ∀ (b : Buffer) (i : Nat), i < b.capacity s.build →
      hostRead s (BitVec.ofNat 9 (b.firstOffset + i)) = readLoc s (.cell b i) :=
    fun b i hi => hostRead_cell (by rwa [hreach])
  refine ⟨rfl, rfl, rfl, rfl, rfl, rfl, rfl, rfl, rfl, rfl, rfl, rfl, rfl, hostRead_chkres s 0, hostRead_chkres s 1,
    hostRead_chkres s 2, (hostRead_chkres s 3).trans (extractLsb'_top_chkres _), hcell .p58, fun i hi => ?_,
    fun i hi => ?_, fun i hi => ?_, fun i hi => ?_, fun off hoff => ?_⟩
  · exact hcell .script i (by rw [capacity_script]; omega)
  · exact hcell .prog i (by rw [capacity_prog]; omega)
  · exact hcell .abuf i (by rw [capacity_abuf]; omega)
  · refine (hcell .d5 i (by rw [capacity_d5]; omega)).trans ?_
    rw [readLoc, if_pos rfl, ← BitVec.setWidth_eq_extractLsb' (by decide : 5 ≤ 8)]
  · rw [hostRead, (locate_eq_none_iff_reservedOffset h off).2 hoff]

end Machine

/-! ## Commands and host operations -/

/-- The decoder of a block gives exactly its well-formed commands, each from its own byte (R7, R83). -/
theorem decodeByteFor_eq_some_iff {hasStrict : Bool} {b : Byte} {i : Instr} :
    decodeByteFor hasStrict b = some i ↔ b = encodeByte i ∧ i.wellFormedFor hasStrict = true := by
  constructor
  · intro h
    rw [decodeByteFor] at h
    split at h
    case h_8 hb =>
      split at h
      case isTrue hs => injection h with h; subst h; exact ⟨BitVec.eq_of_toNat_eq hb, hs⟩
      case isFalse => simp at h
    case h_10 => simp at h
    all_goals
      rename_i hb
      injection h with h
      subst h
      exact ⟨BitVec.eq_of_toNat_eq hb, rfl⟩
  · rintro ⟨rfl, hwf⟩
    cases i with
    | chk32 => exact if_pos hwf
    | _ => rfl

/-- Settles O3: the byte of a command decodes to it, and a byte that decodes to a command is that command's. -/
theorem decodeAndEncodeAgree : Obligations.DecodeAndEncodeAgree := by
  refine ⟨fun i rest _ => decode_encodeByte i rest, fun bytes rest i h => ?_⟩
  cases bytes with
  | nil => simp [decode] at h
  | cons b bs =>
    rw [decode] at h
    split at h
    case h_1 j hj =>
      obtain ⟨rfl, rfl⟩ : j = i ∧ bs = rest := by simpa using h
      rw [(decodeByteFor_eq_some_iff.1 hj).1, encode, List.singleton_append]
    case h_2 => simp at h

/-- Settles O6: a read has no data and a write has some, and every other triple is none. -/
theorem hostOperationTriplesRoundTrip : Obligations.HostOperationTriplesRoundTrip := by
  refine ⟨fun a => by cases a <;> rfl, fun x a h => ?_⟩
  rcases x with ⟨_ | _, off, _ | d⟩
  · obtain rfl : Access.read off = a := by injection h
    rfl
  · cases h
  · cases h
  · obtain rfl : Access.write off d = a := by injection h
    rfl

/-! ## The reverse tables -/

namespace Machine

/-- A byte stands at the place that is found for it. -/
theorem getElem?_of_placeOf {c : Byte} {xs : List Byte} {k : Nat} (h : placeOf c xs = some k) : xs[k]? = some c := by
  induction xs generalizing k with
  | nil => simp [placeOf] at h
  | cons x xs ih =>
    rw [placeOf] at h
    split at h
    case isTrue hx => simp at h; subst h; simp [hx]
    case isFalse =>
      obtain ⟨j, hj, rfl⟩ := Option.map_eq_some_iff.1 h
      exact ih hj

theorem placeOf_eq_none_iff {c : Byte} {xs : List Byte} : placeOf c xs = none ↔ c ∉ xs := by
  induction xs with
  | nil => simp [placeOf]
  | cons x xs ih =>
    rw [placeOf]
    split
    case isTrue hx => simp [hx]
    case isFalse hx => simp [ih, Ne.symm hx]

/-- A place found in a table of at most 2^w entries is the number of the w-bit index. -/
theorem getElem?_of_index {w : Nat} {c : Byte} {xs : List Byte} {v : BitVec w} (hw : xs.length ≤ 2 ^ w)
    (h : (placeOf c xs).map (BitVec.ofNat w ·) = some v) : xs[v.toNat]? = some c := by
  obtain ⟨k, hk, rfl⟩ := Option.map_eq_some_iff.1 h
  have hc := getElem?_of_placeOf hk
  have hlt : k < xs.length := (List.getElem?_eq_some_iff.1 hc).1
  rwa [BitVec.toNat_ofNat, Nat.mod_eq_of_lt (by omega)]

theorem b32val_eq_some {c : Byte} {v : Quint} (h : b32val c = some v) :
    bech32Lower[v.toNat]? = some c ∨ bech32Upper[v.toNat]? = some c := by
  rw [b32val] at h
  cases hl : placeOf c bech32Lower with
  | some k => rw [hl] at h; exact .inl (getElem?_of_index (by decide) (by rw [hl]; exact h))
  | none => rw [hl] at h; exact .inr (getElem?_of_index (by decide) h)

theorem b58val_eq_none_iff {c : Byte} : b58val c = none ↔ c ∉ base58Alphabet := by
  rw [b58val, Option.map_eq_none_iff, placeOf_eq_none_iff]

theorem b32val_eq_none_iff {c : Byte} : b32val c = none ↔ c ∉ bech32Lower ∧ c ∉ bech32Upper := by
  rw [b32val, Option.map_eq_none_iff, Option.or_eq_none_iff, placeOf_eq_none_iff, placeOf_eq_none_iff]

/-- Settles O7: what is found stands at its place; the rest is about the 58 and 32 entries and the 26 letters. -/
theorem reverseTablesInvertTheirCharsets : Obligations.ReverseTablesInvertTheirCharsets := by
  have hascii : (base58Alphabet ++ bech32Lower ++ bech32Upper).all (· < 0x80) = true := by decide +kernel
  refine ⟨by decide +kernel, by decide +kernel, by decide +kernel, fun c k => getElem?_of_index (by decide),
    fun c k => b32val_eq_some, fun c hc => ?_, fun c hlo hhi => ?_, by decide, by decide⟩
  · have habsent : c ∉ base58Alphabet ++ bech32Lower ++ bech32Upper := fun hmem =>
      absurd (of_decide_eq_true (List.all_eq_true.1 hascii c hmem)) (by bv_omega)
    simp only [List.mem_append, not_or] at habsent
    exact ⟨b58val_eq_none_iff.2 habsent.1.1, b32val_eq_none_iff.2 ⟨habsent.1.2, habsent.2⟩⟩
  · have hletters : ∀ k < 26, b32val (BitVec.ofNat 8 (0x41 + k)) = b32val (BitVec.ofNat 8 (0x41 + k) ||| 0x20) := by
      decide
    have hc : c = BitVec.ofNat 8 (0x41 + (c.toNat - 0x41)) := by bv_omega
    rw [hc]
    exact hletters _ (by bv_omega)

end Machine

end Sys2Proof
end

section
/-! What the commands write and what they leave (spec/10_state.md R42, R43; spec/60_exceptions.md R190). -/

namespace Sys2Proof.Machine

/-- States that agree in every field are equal: what a chain of updates has made is compared field by field. -/
theorem State.eq_of_fields {s t : State}
    (hbuild : s.build = t.build) (hcmd : s.cmd = t.cmd) (hstatus : s.status = t.status)
    (hctrl : s.ctrl = t.ctrl) (hargv : s.argv = t.argv) (hchkst : s.chkst = t.chkst)
    (hchkres : s.chkres = t.chkres) (halen : s.alen = t.alen) (hisScript : s.isScript = t.isScript)
    (hisWitness : s.isWitness = t.isWitness) (hwver : s.wver = t.wver) (hwop : s.wop = t.wop)
    (hd5len : s.d5len = t.d5len) (hplen : s.plen = t.plen) (hslen : s.slen = t.slen)
    (hmem : s.mem = t.mem) (hbus : s.bus = t.bus) (hreturned : s.returned = t.returned) : s = t := by
  cases s
  cases t
  simp only at *
  simp only [*]

/-! ## The next state of a command -/

/-- Every command but CLR ends by writing its outcome, and one that misses an argument leaves no script (R195). -/
theorem exec_ends {i : Instr} (hi : i ≠ .clr) (s : State) :
    ∃ e u, exec i s = .next (setOutcome e u) ∧ (e = .missingArg → u.slen = 0) := by
  cases i with
  | a2s =>
    obtain ⟨e, vs, u, hp, hx⟩ := exec_a2s_cases s
    refine ⟨e, _, hx, fun he => ?_⟩
    cases hp with
    | missing => rfl
    | _ => cases he
  | b58dec => exact ⟨_, _, exec_b58dec s, by split <;> nofun⟩
  | b32dec => exact ⟨_, _, exec_b32dec s, by split <;> nofun⟩
  | regrp => exact ⟨_, _, exec_regrp s, nofun⟩
  | mkpkh => exact ⟨_, _, exec_mkpkh s, nofun⟩
  | mksh => exact ⟨_, _, exec_mksh s, nofun⟩
  | mkwp => exact ⟨_, _, exec_mkwp s, nofun⟩
  | chk32 => exact ⟨_, _, exec_chk32 s, nofun⟩
  | clr => exact absurd rfl hi

/-- Every command answers a next state (spec/00_scope.md R13). -/
theorem exec_goesOn (i : Instr) (s : State) : goesOn (exec i s) := by
  by_cases hi : i = .clr
  · subst hi
    exact ⟨_, exec_clr s⟩
  · obtain ⟨e, u, hx, -⟩ := exec_ends hi s
    exact ⟨_, hx⟩

theorem next_inj {o : Host.Outcome State Fault Refusal} {t u : State} (hu : o = .next u) (ht : o = .next t) :
    u = t := by
  injection hu.symm.trans ht

/-- The script assemblers differ in the template alone (spec/43_script.md R160 to R162). -/
theorem exec_assembler {i : Instr} {s t : State} (hi : i ∈ [.mkpkh, .mksh, .mkwp]) (h : exec i s = .next t) :
    ∃ vs, vs.length ≤ max 25 s.build.SMAX ∧ t = setOutcome .ok (setScript vs s) := by
  have hsizes := build_sizes s.build
  simp only [List.mem_cons, List.not_mem_nil, or_false] at hi
  rcases hi with rfl | rfl | rfl
  · exact ⟨_, by rw [pubkeyHashScript_length]; omega, next_inj h (exec_mkpkh s)⟩
  · exact ⟨_, by rw [scriptHashScript_length]; omega, next_inj h (exec_mksh s)⟩
  · exact ⟨_, by rw [witnessScript_length]; omega, next_inj h (exec_mkwp s)⟩

theorem argumentsSupplied_eq_true_iff (argv : Byte) : argumentsSupplied argv = true ↔ argv.extractLsb' 0 3 = 0b111 :=
  decide_eq_true_iff

theorem decodesBech32_a2s (s : State) :
    decodesBech32 .a2s s = (argumentsSupplied s.argv && flagBit s.isWitness) := by
  simp [decodesBech32]

/-- The decoder an A2S has run, and what it left, before SCRIPT, ARGV and STATUS are written. -/
theorem A2sPath.decoded {s u : State} {e : Err} {vs : List Byte} (h : A2sPath s e vs u) :
    (argumentsSupplied s.argv = false ∧ u = s) ∨
    (argumentsSupplied s.argv = true ∧ flagBit s.isWitness = false ∧ ∃ p, u = setPayload p s) ∨
    (argumentsSupplied s.argv = true ∧ flagBit s.isWitness = true ∧
      u = writeDecoded (bech32Result s) (checkedState s)) := by
  cases h with
  | missing ha => exact .inl ⟨ha, rfl⟩
  | legacy ha hw | legacyFail ha hw => exact .inr (.inl ⟨ha, hw, _, rfl⟩)
  | witness ha hw | witnessFail ha hw => exact .inr (.inr ⟨ha, hw, rfl⟩)

theorem A2sPath.length_le {s u : State} {e : Err} {vs : List Byte} (h : A2sPath s e vs u) :
    vs.length ≤ max 25 s.build.SMAX := by
  cases h with
  | missing | legacyFail | witnessFail => exact Nat.zero_le _
  | legacy _ _ _ hl | witness _ _ _ hl => exact hl

theorem A2sPath.build_eq {s u : State} {e : Err} {vs : List Byte} (h : A2sPath s e vs u) : u.build = s.build := by
  rcases h.decoded with ⟨-, rfl⟩ | ⟨-, -, p, rfl⟩ | ⟨-, -, rfl⟩ <;> simp [writeDecoded_eq]

/-! ## Memory -/

/-- STATUS is no part of the memory. -/
theorem bufferIs_setOutcome {s : State} {b : Buffer} {vs : List Byte} (e : Err) (h : bufferIs s b vs) :
    bufferIs (setOutcome e s) b vs := h

theorem sameExceptIn_setOutcome {bs : List Buffer} {s t : State} (e : Err) (h : sameExceptIn bs s t) :
    sameExceptIn bs s (setOutcome e t) := h

/-- Nor is ARGV, which A2S clears before it ends. -/
theorem bufferIs_callEnd {s : State} {b : Buffer} {vs : List Byte} (e : Err) (h : bufferIs s b vs) :
    bufferIs (setOutcome e (clearArgv s)) b vs := h

theorem sameExceptIn_callEnd {bs : List Buffer} {s t : State} (e : Err) (h : sameExceptIn bs s t) :
    sameExceptIn bs s (setOutcome e (clearArgv t)) := h

theorem sameExceptIn_writeDecoded_checkedState {bs : List Buffer} (hd : .d5 ∈ bs) (hp : .prog ∈ bs) (r : Decoded)
    (s : State) : sameExceptIn bs s (writeDecoded r (checkedState s)) :=
  sameExceptIn_trans (checkedState_build s) (sameExceptIn_of_mem (checkedState_mem s))
    (sameExceptIn_mono (sameExceptIn_writeDecoded r (checkedState s)) (by simp [hd, hp]))

theorem A2sPath.sameExceptIn {s u : State} {e : Err} {vs : List Byte} (h : A2sPath s e vs u) :
    sameExceptIn (buffersWritten .a2s s) s u := by
  rcases h.decoded with ⟨-, rfl⟩ | ⟨ha, hw, p, rfl⟩ | ⟨ha, hw, rfl⟩
  · exact sameExceptIn_of_mem rfl
  · exact sameExceptIn_fillBuffer (by simp [buffersWritten, ha, hw]) p s
  · exact sameExceptIn_writeDecoded_checkedState (by simp [buffersWritten, ha, hw])
      (by simp [buffersWritten, ha, hw]) _ s

theorem script_mem_buffersWritten_a2s (s : State) : .script ∈ buffersWritten .a2s s := by
  rw [buffersWritten]
  split
  · split <;> simp
  · simp

/-- Settles O51: each command's stores are to the buffers it writes; A2S adds SCRIPT to its decoder's. -/
theorem commandsStoreOnlyInTheirBuffers : Obligations.CommandsStoreOnlyInTheirBuffers := by
  intro i s t hclr h
  cases i with
  | a2s =>
    obtain ⟨e, vs, u, hp, hx⟩ := exec_a2s_cases s
    obtain rfl := next_inj hx h
    have hscript : sameExceptIn (buffersWritten .a2s s) u (setScript vs u) :=
      sameExceptIn_fillBuffer (script_mem_buffersWritten_a2s s) vs u
    exact sameExceptIn_callEnd e (sameExceptIn_trans hp.build_eq hp.sameExceptIn hscript)
  | b58dec =>
    obtain rfl := next_inj (exec_b58dec s) h
    exact sameExceptIn_setOutcome _ (sameExceptIn_fillBuffer (List.mem_singleton_self _) _ s)
  | b32dec =>
    obtain rfl := next_inj (exec_b32dec s) h
    exact sameExceptIn_setOutcome _
      (sameExceptIn_writeDecoded_checkedState (by simp [buffersWritten]) (by simp [buffersWritten]) _ s)
  | regrp =>
    obtain rfl := next_inj (exec_regrp s) h
    exact sameExceptIn_setOutcome _ (sameExceptIn_setProgram _ s)
  | mkpkh | mksh | mkwp =>
    obtain ⟨vs, -, rfl⟩ := exec_assembler (by decide) h
    exact sameExceptIn_setOutcome _ (sameExceptIn_setScript vs s)
  | chk32 =>
    obtain rfl := next_inj (exec_chk32 s) h
    exact sameExceptIn_of_mem rfl
  | clr => exact absurd rfl hclr

/-! ## Registers -/

/-- Settles O52: the registers in the next state of each command, the permissive decoder leaving the check alone. -/
theorem commandsWriteOnlyTheirRegisters : Obligations.CommandsWriteOnlyTheirRegisters := by
  intro i s t hclr h
  cases i with
  | a2s =>
    obtain ⟨e, vs, u, hp, hx⟩ := exec_a2s_cases s
    obtain rfl := next_inj hx h
    rw [decodesBech32_a2s]
    rcases hp.decoded with ⟨ha, rfl⟩ | ⟨ha, hw, p, rfl⟩ | ⟨ha, hw, rfl⟩
    · simp [ha]
    · simp [ha, hw]
    · simp +contextual [ha, hw, writeDecoded_eq, checkedState_of_permissive]
  | b58dec =>
    obtain rfl := next_inj (exec_b58dec s) h
    simp
  | b32dec =>
    obtain rfl := next_inj (exec_b32dec s) h
    simp +contextual [decodesBech32, writeDecoded_eq, checkedState_of_permissive]
  | regrp =>
    obtain rfl := next_inj (exec_regrp s) h
    simp
  | mkpkh | mksh | mkwp =>
    obtain ⟨vs, -, rfl⟩ := exec_assembler (by decide) h
    simp
  | chk32 =>
    obtain rfl := next_inj (exec_chk32 s) h
    simp [writeCheck]
  | clr => exact absurd rfl hclr

/-! ## Zero fill -/

/-- The cells of a written buffer at and above the length stored with it are zero (R43). -/
theorem readCell_above_length {t : State} {b : Buffer} {vs : List Byte} {len : Byte} (h : bufferIs t b vs)
    (hlen : len = BitVec.ofNat 8 vs.length) (hl : vs.length ≤ 255) {k : Nat} (hk : len.toNat ≤ k)
    (hc : k < b.capacity t.build) : readCell t b k = 0 := by
  subst hlen
  rw [BitVec.toNat_ofNat, Nat.mod_eq_of_lt (by omega)] at hk
  rw [h k hc]
  exact List.getD_eq_default _ _ hk

theorem SMAX_le (c : Build) : c.SMAX ≤ 255 := capacity_le c .script
theorem PMAX_le (c : Build) : c.PMAX ≤ 255 := capacity_le c .prog
theorem DMAX_le (c : Build) : c.DMAX ≤ 255 := capacity_le c .d5

/-- The regrouper's program always fits PROG. -/
theorem regroup_d5Values_length_le (s : State) : (regroup (d5Values s)).length ≤ s.build.PMAX := by
  have hd := d5Values_length s
  have hsizes := build_sizes s.build
  rw [regroup_length]
  omega

/-- What the bech32 decoder has left in D5 and PROG is zero above the lengths it has left with them. -/
theorem zero_above_writeDecoded (s : State) {t : State}
    (hd : bufferIs t .d5 ((bech32Result s).d5.map (·.setWidth 8))) (hp : bufferIs t .prog (bech32Result s).prog)
    (hdl : t.d5len = BitVec.ofNat 8 (bech32Result s).d5.length)
    (hpl : t.plen = BitVec.ofNat 8 (bech32Result s).prog.length) :
    (∀ k, t.d5len.toNat ≤ k → k < t.build.DMAX → readCell t .d5 k = 0) ∧
    (∀ k, t.plen.toNat ≤ k → k < t.build.PMAX → readCell t .prog k = 0) := by
  have hd' := (bech32Result_d5_length_le s).trans (DMAX_le _)
  have hp' := (bech32Result_prog_length_le s).trans (PMAX_le _)
  exact ⟨fun k => readCell_above_length hd (by rw [hdl, List.length_map]) (by rwa [List.length_map]),
    fun k => readCell_above_length hp hpl hp'⟩

/-- SCRIPT just written is zero above SLEN. -/
theorem zero_above_setScript (e : Err) {vs : List Byte} (hl : vs.length ≤ 255) (s : State) :
    ∀ k, (setOutcome e (setScript vs s)).slen.toNat ≤ k → k < s.build.SMAX →
      readCell (setOutcome e (setScript vs s)) .script k = 0 :=
  fun _ => readCell_above_length (bufferIs_setScript vs s) rfl hl

/-- Writing SCRIPT leaves what another buffer holds. -/
theorem bufferIs_setScript_ne {s : State} {b : Buffer} {ws : List Byte} (h : bufferIs s b ws) (hb : b ≠ .script)
    (vs : List Byte) : bufferIs (setScript vs s) b ws :=
  bufferIs_of_mem (bufferIs_fillBuffer_ne h hb vs) rfl rfl

/-- Settles O53: every buffer a command writes with its length is filled whole, with zeros above the length. -/
theorem commandsZeroFillAboveTheNewLength : Obligations.CommandsZeroFillAboveTheNewLength := by
  intro i s t h
  have hsmax := SMAX_le s.build
  cases i with
  | a2s =>
    obtain ⟨e, vs, u, hp, hx⟩ := exec_a2s_cases s
    obtain rfl := next_inj hx h
    have hlen := hp.length_le
    refine ⟨fun hb => ?_, fun hb => ?_, fun _ => zero_above_setScript e (by omega) u⟩
    all_goals
      simp only [decodesBech32_a2s, reduceCtorEq, or_false, Bool.and_eq_true] at hb
      obtain ⟨ha, hw⟩ := hb
      have hu : u = writeDecoded (bech32Result s) (checkedState s) := by simpa [ha, hw] using hp.decoded
      subst hu
      have hz := zero_above_writeDecoded s
        (bufferIs_setScript_ne (bufferIs_writeDecoded_d5 (bech32Result s) (checkedState s)) (by decide) vs)
        (bufferIs_setScript_ne (bufferIs_writeDecoded_prog (bech32Result s) (checkedState s)) (by decide) vs) rfl rfl
    · exact hz.1
    · exact hz.2
  | b32dec =>
    obtain rfl := next_inj (exec_b32dec s) h
    have hz := zero_above_writeDecoded s (bufferIs_writeDecoded_d5 (bech32Result s) (checkedState s))
      (bufferIs_writeDecoded_prog (bech32Result s) (checkedState s)) rfl rfl
    exact ⟨fun _ => hz.1, fun _ => hz.2, by simp⟩
  | regrp =>
    obtain rfl := next_inj (exec_regrp s) h
    have hlen := (regroup_d5Values_length_le s).trans (PMAX_le _)
    exact ⟨by simp [decodesBech32], fun _ _ => readCell_above_length (bufferIs_setProgram _ s) rfl hlen, by simp⟩
  | mkpkh | mksh | mkwp =>
    obtain ⟨vs, hlen, rfl⟩ := exec_assembler (by decide) h
    exact ⟨by simp [decodesBech32], by simp [decodesBech32], fun _ => zero_above_setScript .ok (by omega) s⟩
  | b58dec | chk32 | clr => exact ⟨by simp [decodesBech32], by simp [decodesBech32], by simp⟩

/-! ## Outcomes -/

theorem strictOn_of_b58body_eq_none {s : State} (h : b58body (inputString s) (strictOn s) = none) :
    strictOn s = true := by
  by_contra hs
  have hsome := b58body_permissive (inputString s)
  rw [← Bool.not_eq_true _ |>.mp hs, h] at hsome
  simp at hsome

theorem strictOn_of_not_bech32Accepted {s : State} (h : bech32Accepted s = false) : strictOn s = true := by
  rw [bech32Accepted, Bool.or_eq_false_iff, Bool.not_eq_false'] at h
  exact h.1

/-- Settles O54: the outcome each command ends with; the decoders fail in strict mode alone. -/
theorem commandsEndInOneOutcome : Obligations.CommandsEndInOneOutcome := by
  intro i s hclr
  cases i with
  | a2s =>
    obtain ⟨e, vs, u, hp, hx⟩ := exec_a2s_cases s
    refine ⟨_, hx, ?_⟩
    cases hp with
    | missing ha => exact .inr (.inl ⟨rfl, rfl, (argumentsSupplied_eq_false_iff _).1 ha⟩)
    | legacy | witness => exact .inl rfl
    | legacyFail _ _ hs | witnessFail _ _ hs => exact .inr (.inr ⟨rfl, by simp, hs⟩)
  | b58dec =>
    refine ⟨_, exec_b58dec s, ?_⟩
    cases hb : b58body (inputString s) (strictOn s) with
    | some p => exact .inl (by simp)
    | none => exact .inr (.inr ⟨rfl, by simp, strictOn_of_b58body_eq_none hb⟩)
  | b32dec =>
    refine ⟨_, exec_b32dec s, ?_⟩
    cases ha : bech32Accepted s with
    | true => exact .inl rfl
    | false => exact .inr (.inr ⟨rfl, by simp, strictOn_of_not_bech32Accepted ha⟩)
  | regrp => exact ⟨_, exec_regrp s, .inl rfl⟩
  | mkpkh => exact ⟨_, exec_mkpkh s, .inl rfl⟩
  | mksh => exact ⟨_, exec_mksh s, .inl rfl⟩
  | mkwp => exact ⟨_, exec_mkwp s, .inl rfl⟩
  | chk32 => exact ⟨_, exec_chk32 s, .inl rfl⟩
  | clr => exact absurd rfl hclr

end Sys2Proof.Machine
end

section
/-! What one step can do: every input's effect, and the rules that follow from it (spec/20_memory.md R64 to R70,
spec/30_encoding.md R81, spec/70_reset_and_hazards.md R210, R212). -/

namespace Sys2Proof.Machine

/-! ## The effect of an input -/

/-- The ways an input can take its effect, by the kind of access and what stands at its offset. -/
inductive AcceptEffect (s : State) : Input → State → Prop where
  | read (off : Offset) : AcceptEffect s (.access (.read off)) (returnByte (hostRead s off) s)
  | reserved (off : Offset) (v : Byte) (h : locate s.build off = none) : AcceptEffect s (.access (.write off v)) s
  | store (l : Loc) (v : Byte) (hwf : l.wellFormed s.build = true) (hc : l ≠ .cmd) :
      AcceptEffect s (.access (.write l.offset v)) (writeLoc l v s)
  | illegal (v : Byte) (h : decodeByteFor s.build.hasStrict v = none) :
      AcceptEffect s (commandInput v) (setOutcome .illegalCmd { s with cmd := v })
  | command (i : Instr) (t : State) (hwf : i.wellFormedFor s.build.hasStrict = true)
      (he : exec i { s with cmd := encodeByte i } = .next t) : AcceptEffect s (commandInput (encodeByte i)) t
  | reset : AcceptEffect s .reset (resetBlock s)

/-- A write to CMD executes the byte: it is illegal, or the byte of a command the block has (R81, R84). -/
theorem hostWrite_cmd_effect (v : Byte) (s : State) :
    ∃ t, hostWrite Loc.cmd.offset v s = .next t ∧ AcceptEffect s (commandInput v) t := by
  cases hv : decodeByteFor s.build.hasStrict v with
  | none => exact ⟨_, hostWrite_cmd_illegal hv, .illegal v hv⟩
  | some i =>
    obtain ⟨rfl, hwf⟩ := decodeByteFor_eq_some_iff.1 hv
    obtain ⟨t, ht⟩ := exec_goesOn i { s with cmd := encodeByte i }
    exact ⟨t, (hostWrite_cmd_legal hv).trans ht, .command i t hwf ht⟩

theorem hostWrite_effect (off : Offset) (v : Byte) (s : State) :
    ∃ t, hostWrite off v s = .next t ∧ AcceptEffect s (.access (.write off v)) t := by
  cases hl : locate s.build off with
  | none => exact ⟨s, hostWrite_reserved hl v, .reserved off v hl⟩
  | some l =>
    obtain ⟨hwf, rfl⟩ := wellFormed_of_locate hl
    by_cases hc : l = .cmd
    · subst hc
      exact hostWrite_cmd_effect v s
    · exact ⟨_, hostWrite_of_ne_cmd hl hc v, .store l v hwf hc⟩

theorem accept_effect (i : Input) (s : State) : ∃ t, accept i s = .next t ∧ AcceptEffect s i t := by
  cases i with
  | reset => exact ⟨_, rfl, .reset⟩
  | access a =>
    cases a with
    | read off => exact ⟨_, rfl, .read off⟩
    | write off v => exact hostWrite_effect off v s

/-- A step is idle or takes the oldest input. -/
theorem step_cases {s t : State} (h : step s = .next t) :
    (s.bus = [] ∧ t = s) ∨ ∃ i rest, s.bus = i :: rest ∧ AcceptEffect { s with bus := rest } i t := by
  cases hb : s.bus with
  | nil => exact .inl ⟨rfl, next_inj h (step_idle hb)⟩
  | cons i rest =>
    obtain ⟨u, hu, heff⟩ := accept_effect i { s with bus := rest }
    obtain rfl := next_inj ((step_input hb).trans hu) h
    exact .inr ⟨i, rest, rfl, heff⟩

/-! ## The input queue, the returned bytes and the build -/

/-- No command takes an input, answers a read or changes the build (log entries 1, 2, 7). -/
theorem exec_outside {i : Instr} {s t : State} (h : exec i s = .next t) :
    t.bus = s.bus ∧ t.returned = s.returned ∧ t.build = s.build := by
  by_cases hi : i = .clr
  · subst hi
    obtain rfl := next_inj (exec_clr s) h
    exact ⟨rfl, rfl, rfl⟩
  · obtain ⟨hbuild, -, -, -, -, -, hbus, hret, -⟩ := commandsWriteOnlyTheirRegisters i s t hi h
    exact ⟨hbus, hret, hbuild⟩

theorem AcceptEffect.outside {s t : State} {i : Input} (h : AcceptEffect s i t) :
    t.bus = s.bus ∧ s.returned <+: t.returned ∧ t.build = s.build := by
  cases h with
  | read off => exact ⟨rfl, ⟨_, rfl⟩, rfl⟩
  | reserved | illegal | reset => exact ⟨rfl, ⟨[], List.append_nil _⟩, rfl⟩
  | store l v =>
    obtain ⟨hbus, hret, hbuild⟩ := writeLoc_outside l v s
    exact ⟨hbus, ⟨[], by rw [hret, List.append_nil]⟩, hbuild⟩
  | command j _ hwf he =>
    obtain ⟨hbus, hret, hbuild⟩ := exec_outside he
    exact ⟨hbus, ⟨[], by rw [hret, List.append_nil]⟩, hbuild⟩

/-- Settles O55: the step takes the head of the queue, and its effect is outside the queue. -/
theorem everyStepGoesOnAndTakesOneInput : Obligations.EveryStepGoesOnAndTakesOneInput := by
  intro s
  cases hb : s.bus with
  | nil => exact ⟨s, step_idle hb, hb, ⟨[], List.append_nil _⟩⟩
  | cons i rest =>
    obtain ⟨t, ht, heff⟩ := accept_effect i { s with bus := rest }
    obtain ⟨hbus, hret, -⟩ := heff.outside
    exact ⟨t, (step_input hb).trans ht, hbus, hret⟩

theorem step_build {s t : State} (h : step s = .next t) : t.build = s.build := by
  rcases step_cases h with ⟨-, rfl⟩ | ⟨i, rest, -, heff⟩
  · rfl
  · exact heff.outside.2.2

/-- Settles O58: the sizes are those of `Build`, whose AMAX is any number up to 255; no effect writes the build. -/
theorem sizesFollowAmaxAndNoStepChangesTheBuild : Obligations.SizesFollowAmaxAndNoStepChangesTheBuild :=
  ⟨⟨rfl, rfl, rfl⟩, fun _ => ⟨rfl, rfl, rfl, rfl, rfl⟩, ⟨rfl, rfl, rfl, rfl⟩,
    fun n _ hn => ⟨⟨⟨n, by omega⟩, true⟩, rfl⟩, fun _ _ => step_build⟩

/-! ## What an input can clear or change -/

/-- Storing at a location sets bits of ARGV and clears none (spec/10_state.md R24). -/
theorem writeLoc_argv (l : Loc) (v : Byte) (s : State) : s.argv &&& (writeLoc l v s).argv = s.argv := by
  have hset : ∀ a m : Byte, a &&& (a ||| m) = a := fun a m => by ext i; simp +contextual
  cases l with
  | alen => rw [writeLoc]; split <;> simp [hset]
  | isScript | isWitness => exact hset _ _
  | d5len | plen => rw [writeLoc]; split <;> simp
  | cell b i => cases b <;> simp [writeLoc]
  | _ => simp [writeLoc]

theorem writeLoc_status (l : Loc) (v : Byte) (s : State) : (writeLoc l v s).status = s.status := by
  cases l with
  | alen | d5len | plen => rw [writeLoc]; split <;> rfl
  | cell b i => cases b <;> rfl
  | _ => rfl

theorem writeLoc_ctrl {l : Loc} (hl : l ≠ .ctrl) (v : Byte) (s : State) : (writeLoc l v s).ctrl = s.ctrl := by
  cases l with
  | ctrl => exact absurd rfl hl
  | alen | d5len | plen => rw [writeLoc]; split <;> rfl
  | cell b i => cases b <;> rfl
  | _ => rfl

/-- No command but CLR leaves DONE clear (R23, spec/30_encoding.md R81). -/
theorem exec_done {i : Instr} {s t : State} (hi : i ≠ .clr) (h : exec i s = .next t) : t.status.getLsbD 2 = true := by
  obtain ⟨e, u, hx, -⟩ := exec_ends hi s
  obtain rfl := next_inj hx h
  rw [setOutcome_status]
  cases e <;> decide

theorem AcceptEffect.keeps_argv {s t : State} {i : Input} (h : AcceptEffect s i t) :
    s.argv &&& t.argv = s.argv ∨ i = .reset ∨ i = commandInput (encodeByte .clr) ∨
      i = commandInput (encodeByte .a2s) := by
  cases h with
  | read | reserved | illegal => exact .inl (BitVec.and_self)
  | store l v => exact .inl (writeLoc_argv l v s)
  | reset => exact .inr (.inl rfl)
  | command j _ hwf he =>
    by_cases hclr : j = .clr
    · exact .inr (.inr (.inl (by rw [hclr])))
    by_cases ha2s : j = .a2s
    · exact .inr (.inr (.inr (by rw [ha2s])))
    obtain ⟨-, -, -, -, -, -, -, -, hargv, -⟩ := commandsWriteOnlyTheirRegisters j _ t hclr he
    exact .inl (by rw [hargv ha2s]; exact BitVec.and_self)

theorem AcceptEffect.keeps_done {s t : State} {i : Input} (h : AcceptEffect s i t)
    (hd : s.status.getLsbD 2 = true) :
    t.status.getLsbD 2 = true ∨ i = .reset ∨ i = commandInput (encodeByte .clr) := by
  cases h with
  | read | reserved => exact .inl hd
  | illegal => exact .inl (by simp)
  | store l v => exact .inl (by rw [writeLoc_status, hd])
  | reset => exact .inr (.inl rfl)
  | command j _ hwf he =>
    by_cases hclr : j = .clr
    · exact .inr (.inr (by rw [hclr]))
    · exact .inl (exec_done hclr he)

theorem AcceptEffect.keeps_ctrl {s t : State} {i : Input} (h : AcceptEffect s i t) :
    t.ctrl = s.ctrl ∨ i = .reset ∨ i = commandInput (encodeByte .clr) ∨
      ∃ v, i = .access (.write Loc.ctrl.offset v) := by
  cases h with
  | read | reserved | illegal => exact .inl rfl
  | store l v =>
    by_cases hl : l = .ctrl
    · exact .inr (.inr (.inr ⟨v, by rw [hl]⟩))
    · exact .inl (writeLoc_ctrl hl v s)
  | reset => exact .inr (.inl rfl)
  | command j _ hwf he =>
    by_cases hclr : j = .clr
    · exact .inr (.inr (.inl (by rw [hclr])))
    · obtain ⟨-, -, hctrl, -⟩ := commandsWriteOnlyTheirRegisters j _ t hclr he
      exact .inl hctrl

/-- Settles O56: an idle step changes nothing; of the inputs, those named are the only ones left. -/
theorem onlyNamedInputsClearArgvAndDoneOrChangeCtrl : Obligations.OnlyNamedInputsClearArgvAndDoneOrChangeCtrl := by
  intro s t h
  rcases step_cases h with ⟨-, rfl⟩ | ⟨i, rest, hbus, heff⟩
  · exact ⟨.inl BitVec.and_self, .inl, .inl rfl⟩
  · simp only [hbus, List.head?_cons, Option.some_inj]
    exact ⟨heff.keeps_argv, heff.keeps_done, heff.keeps_ctrl⟩

/-- A store at a location other than an ABUF cell leaves that cell. -/
theorem readCell_abuf_writeLoc {l : Loc} {i : Nat} (hl : l ≠ .cell .abuf i) (v : Byte) {s : State}
    (hwf : l.wellFormed s.build = true) (hi : i < s.build.AMAX) :
    readCell (writeLoc l v s) .abuf i = readCell s .abuf i := by
  cases l with
  | cell b j =>
    have hj := (lt_reach.1 (of_decide_eq_true hwf)).1
    have hne : Buffer.abuf.base + i ≠ b.base + j := by
      by_cases hb : b = .abuf
      · subst hb
        have : i ≠ j := fun e => hl (by rw [e])
        omega
      · exact base_add_ne (Ne.symm hb) hi hj
    cases b with
    | script => rfl
    | _ => exact read_writeCell_ne _ j v s _ hne
  | alen | d5len | plen => rw [writeLoc]; split <;> rfl
  | _ => rfl

theorem abuf_not_mem_buffersWritten {i : Instr} (hi : i ≠ .clr) (s : State) : .abuf ∉ buffersWritten i s := by
  cases i with
  | clr => exact absurd rfl hi
  | a2s =>
    rw [buffersWritten]
    split
    · split <;> simp
    · simp
  | _ => simp [buffersWritten]

theorem AcceptEffect.keeps_abuf {s t : State} {i : Input} (h : AcceptEffect s i t) {k : Nat}
    (hk : k < s.build.AMAX) :
    readCell t .abuf k = readCell s .abuf k ∨ i = .reset ∨ i = commandInput (encodeByte .clr) ∨
      ∃ v, k < 128 ∧ i = .access (.write (Loc.cell .abuf k).offset v) := by
  cases h with
  | read | reserved | illegal => exact .inl rfl
  | store l v hwf =>
    by_cases hl : l = .cell .abuf k
    · subst hl
      exact .inr (.inr (.inr ⟨v, (lt_reach.1 (of_decide_eq_true hwf)).2, rfl⟩))
    · exact .inl (readCell_abuf_writeLoc hl v hwf hk)
  | reset => exact .inr (.inl rfl)
  | command j _ hwf he =>
    by_cases hclr : j = .clr
    · exact .inr (.inr (.inl (by rw [hclr])))
    · exact .inl (sameExceptIn_cell (commandsStoreOnlyInTheirBuffers j _ t hclr he)
        (abuf_not_mem_buffersWritten hclr _) hk)

/-- Settles O57: no command writes ABUF, and a host write stores in its own cell alone. -/
theorem onlyHostResetAndClrChangeAbuf : Obligations.OnlyHostResetAndClrChangeAbuf := by
  intro s t k hk h
  rcases step_cases h with ⟨-, rfl⟩ | ⟨i, rest, hbus, heff⟩
  · exact .inl rfl
  · simp only [hbus, List.head?_cons, Option.some_inj]
    exact heff.keeps_abuf hk

/-! ## The step by its input -/

/-- Settles O9: no input, no effect. -/
theorem idleBlockKeepsItsState : Obligations.IdleBlockKeepsItsState := fun _ => step_idle

/-- Settles O10: both are `resetBlock` (R180, R210). -/
theorem clrAndResetRestoreTheResetState : Obligations.ClrAndResetRestoreTheResetState :=
  ⟨rfl, exec_clr, fun _ _ h => step_input h⟩

/-- The queue is no part of what a read returns. -/
theorem hostRead_bus (s : State) (rest : List Input) (off : Offset) :
    hostRead { s with bus := rest } off = hostRead s off := by
  cases hl : locate s.build off with
  | none => simp only [hostRead, hl]
  | some l => simp only [hostRead, hl]; cases l <;> rfl

/-- Settles O11: a read is `returnByte` of what stands at the offset. -/
theorem hostReadReturnsAByteAndChangesNothing : Obligations.HostReadReturnsAByteAndChangesNothing := by
  intro s off rest h
  rw [step_read h, hostRead_bus]
  rfl

/-- The step of a write to a location the build has, other than CMD, is the store there. -/
theorem step_writeLoc {s : State} {l : Loc} {v : Byte} {rest : List Input} (hwf : l.wellFormed s.build = true)
    (hc : l ≠ .cmd) (h : s.bus = .access (.write l.offset v) :: rest) :
    step s = .next (writeLoc l v { s with bus := rest }) := by
  rw [step_write h, hostWrite_of_ne_cmd (s := { s with bus := rest }) (locate_offset hwf) hc]

/-- The step of a command byte is the command on the state that holds the byte (R81). -/
theorem step_command {s : State} {b : Byte} {i : Instr} {rest : List Input} (hb : b = encodeByte i)
    (hwf : i.wellFormedFor s.build.hasStrict = true) (h : s.bus = commandInput b :: rest) :
    step s = exec i { s with bus := rest, cmd := b } := by
  rw [step_write h]
  exact hostWrite_cmd_legal (s := { s with bus := rest }) (decodeByteFor_eq_some_iff.2 ⟨hb, hwf⟩)

theorem decode_singleton {b : Byte} {i : Instr} (h : decode [b] = .ok (i, [])) : b = encodeByte i := by
  simpa [encode] using decodeAndEncodeAgree.2 [b] [] i h

theorem tableByte_of_lt {w : Nat} (hw : w < 256) : tableByte 8 w = BitVec.ofNat 8 w :=
  congrArg (BitVec.ofNat 8) (Nat.mod_eq_of_lt hw)

theorem decodeTableWord_byte {w : Nat} (hw : w < 256) {i : Instr} (h : decodeTableWord 8 w = some i) :
    BitVec.ofNat 8 w = encodeByte i := by
  rw [decodeTableWord, tableByte_of_lt hw] at h
  split at h
  case h_1 j rest hj =>
    obtain rfl : j = i := by simpa using h
    have hcons := decodeAndEncodeAgree.2 _ _ _ hj
    rw [encode, List.singleton_append] at hcons
    exact (List.cons.inj hcons).1
  case h_2 => simp at h

/-- Settles O8: a byte that decodes is its command's, and the port runs it. -/
theorem stepRunsTheDecodedCommand : Obligations.StepRunsTheDecodedCommand := by
  refine ⟨fun s b i rest hbus hd hwf => step_command (decode_singleton hd) hwf hbus, fun s w i hw hd hwf => ?_,
    fun s off v rest => step_write⟩
  refine step_command (s := s.withFetchWord 8 w) (decodeTableWord_byte hw hd) hwf ?_
  rw [State.withFetchWord, tableByte_of_lt hw]

/-- Settles O13: the three stores of `writeLoc` that narrow to bit 0. -/
theorem controlAndFlagWritesKeepBitZero : Obligations.ControlAndFlagWritesKeepBitZero :=
  ⟨fun _ _ _ h => step_writeLoc (l := .ctrl) rfl nofun h, fun _ _ _ h => step_writeLoc (l := .isScript) rfl nofun h,
    fun _ _ _ h => step_writeLoc (l := .isWitness) rfl nofun h⟩

/-- Settles O14: the three stores of `writeLoc` that compare with a capacity, and the one of WOP. -/
theorem lengthWritesAboveCapacityAreIgnored : Obligations.LengthWritesAboveCapacityAreIgnored := by
  refine ⟨fun s v rest h => ?_, fun s v rest h => ?_, fun s v rest h => ?_,
    fun s v rest h => step_writeLoc (l := .wop) rfl nofun h⟩
  · rw [step_writeLoc (l := .alen) rfl nofun h, ← apply_ite]
    rfl
  · rw [step_writeLoc (l := .d5len) rfl nofun h, ← apply_ite]
    rfl
  · rw [step_writeLoc (l := .plen) rfl nofun h, ← apply_ite]
    rfl

/-- A D5 cell keeps bits 4:0 (spec/10_state.md R39). -/
theorem setWidth_5_8 (v : Byte) : (v.setWidth 5).setWidth 8 = v &&& 0x1F := by
  apply BitVec.eq_of_toNat_eq
  have hmask : v.toNat &&& 0x1F = v.toNat % 32 := Nat.and_two_pow_sub_one_eq_mod v.toNat 5
  rw [BitVec.toNat_setWidth, BitVec.toNat_setWidth, BitVec.toNat_and]
  exact (by omega : v.toNat % 2 ^ 5 % 2 ^ 8 = v.toNat % 32).trans hmask.symm

/-- Settles O15: the step is `writeCell`, which stores one byte. -/
theorem cellWriteStoresOneCell : Obligations.CellWriteStoresOneCell := by
  intro s b i v rest hb hi h
  refine ⟨_, step_writeCell hb hi h, rfl, ?_, fun a ha => read_writeCell_ne b i v _ a ha⟩
  rw [readCell_writeCell, setWidth_5_8]

end Sys2Proof.Machine
end

section
/-! The invariant of the block: it holds at reset and every step keeps it (spec/10_state.md R23 to R43). -/

namespace Sys2Proof.Machine

/-- The invariant but for the outcome, which does not hold between the parts of a command. -/
structure State.Legal (s : State) : Prop where
  build    : s.buildLegal
  cells    : s.cellsLegal
  lengths  : s.lengthsLegal
  reserved : s.reservedZero
  check    : s.checkNested
  script   : s.scriptZeroFilled

theorem State.Inv.legal {s : State} (h : s.Inv) : s.Legal :=
  ⟨h.build, h.cells, h.lengths, h.reserved, h.check, h.script⟩

theorem State.Legal.inv {s : State} (h : s.Legal) (ho : s.outcomeConsistent) : s.Inv :=
  ⟨h.build, h.cells, h.lengths, h.reserved, h.check, h.script, ho⟩

/-! ## Reset -/

theorem State.Legal.reset {s : State} (h : s.build.legal) : (resetBlock s).Legal where
  build := ⟨h, fun _ => rfl⟩
  cells := ⟨Memory.nil_wf, by simp⟩
  lengths := ⟨Nat.zero_le _, Nat.zero_le _, Nat.zero_le _, Nat.zero_le _⟩
  reserved := (by decide : State.reset.reservedZero)
  check := (by decide : State.reset.checkNested)
  script := fun _ _ _ => rfl

theorem outcomeConsistent_resetBlock (s : State) : (resetBlock s).outcomeConsistent :=
  (by decide : State.reset.outcomeConsistent)

/-- Settles O59: the state after reset is its own reset state. -/
theorem invariantHoldsAtReset : Obligations.InvariantHoldsAtReset :=
  (State.Legal.reset (s := State.reset) (by decide)).inv (outcomeConsistent_resetBlock State.reset)

/-! ## The memory -/

/-- A run of bytes stored inside one buffer, of 5-bit values in D5, keeps the memory legal. -/
theorem cellsLegal_store {s t : State} (h : s.cellsLegal) {b : Buffer} {i : Nat} {vs : List Byte}
    (hb : t.build = s.build) (hm : t.mem = s.mem.store (b.base + i) vs) (hi : i + vs.length ≤ b.capacity s.build)
    (hd : b = .d5 → ∀ v ∈ vs, v.toNat < 32) : t.cellsLegal := by
  obtain ⟨hwf, hcells⟩ := h
  rw [State.cellsLegal, hm, hb]
  refine ⟨Memory.store_keeps_wf hwf _ _, fun c hc => ?_⟩
  rcases Memory.mem_store hc with ⟨hold, -⟩ | ⟨hlo, hhi, hv, -⟩
  · exact hcells c hold
  · have hat : b.holds s.build c.1 = true := (holds_iff _ _ _).2 ⟨by omega, by omega⟩
    refine ⟨Option.isSome_iff_exists.2 ⟨b, bufferAt_eq_some.2 hat⟩, fun h5 => ?_⟩
    exact hd (holds_unique hat h5) c.2 (List.mem_of_getElem? hv)

theorem mem_zeroFill {n : Nat} {vs : List Byte} {v : Byte} (h : v ∈ zeroFill n vs) : v ∈ vs ∨ v = 0 := by
  have := List.mem_of_mem_take h
  rw [List.mem_append, List.mem_replicate] at this
  exact this.imp_right And.right

theorem cellsLegal_fillBuffer {s : State} (h : s.cellsLegal) {b : Buffer} {vs : List Byte}
    (hd : b = .d5 → ∀ v ∈ vs, v.toNat < 32) : (fillBuffer b vs s).cellsLegal := by
  refine cellsLegal_store h (b := b) (i := 0) rfl (fillBuffer_mem b vs s) (by simp) fun hb v hv => ?_
  rcases mem_zeroFill hv with hv | rfl
  · exact hd hb v hv
  · decide

theorem cellsLegal_writeCell {s : State} (h : s.cellsLegal) {b : Buffer} {i : Nat} (hi : i < b.capacity s.build)
    (v : Byte) : (writeCell b i v s).cellsLegal := by
  refine cellsLegal_store h rfl (writeCell_mem b i v s) (by simpa using hi) fun hb x hx => ?_
  rw [List.mem_singleton.1 hx, if_pos hb, BitVec.toNat_setWidth, BitVec.toNat_setWidth]
  omega

/-- Writing another buffer leaves SCRIPT zero above SLEN. -/
theorem scriptZeroFilled_fillBuffer {s : State} (h : s.scriptZeroFilled) {b : Buffer} (hb : b ≠ .script)
    (vs : List Byte) : (fillBuffer b vs s).scriptZeroFilled :=
  fun i hi hl => (readCell_fillBuffer_ne hb.symm vs s i hi).trans (h i hi hl)

theorem scriptZeroFilled_writeCell {s : State} (h : s.scriptZeroFilled) {b : Buffer} (hb : b ≠ .script) {i : Nat}
    (hi : i < b.capacity s.build) (v : Byte) : (writeCell b i v s).scriptZeroFilled :=
  fun j hj hl => (read_writeCell_ne b i v s _ (base_add_ne hb.symm hj hi)).trans (h j hj hl)

/-! ## The operations on the state -/

/-- A length at most its capacity is what its register holds. -/
theorem toNat_length_le {n cap : Nat} (hn : n ≤ cap) (hcap : cap ≤ 255) : (BitVec.ofNat 8 n).toNat ≤ cap := by
  rw [BitVec.toNat_ofNat, Nat.mod_eq_of_lt (by omega)]
  exact hn

theorem statusWord_bits (e : Err) :
    (statusWord true e).extractLsb' 3 5 = 0 ∧ statusDone (statusWord true e) = true ∧
    (statusErr (statusWord true e) = Err.missingArg.code → e = .missingArg) := by
  cases e <;> decide

namespace State.Legal

variable {s : State} (h : s.Legal)
include h

theorem setOutcome (e : Err) : (setOutcome e s).Legal where
  build := h.build
  cells := h.cells
  lengths := h.lengths
  reserved := ⟨(statusWord_bits e).1, h.reserved.2⟩
  check := h.check
  script := h.script

theorem clearArgv : (clearArgv s).Legal where
  build := h.build
  cells := h.cells
  lengths := h.lengths
  reserved := by
    obtain ⟨hstatus, hctrl, -, hrest⟩ := h.reserved
    exact ⟨hstatus, hctrl, by simp, hrest⟩
  check := h.check
  script := h.script

theorem setCmd (v : Byte) : State.Legal { s with cmd := v } :=
  ⟨h.build, h.cells, h.lengths, h.reserved, h.check, h.script⟩

theorem setScript {vs : List Byte} (hl : vs.length ≤ s.build.SMAX) : (setScript vs s).Legal where
  build := h.build
  cells := cellsLegal_fillBuffer h.cells (b := .script) nofun
  lengths := by
    obtain ⟨halen, hd5len, hplen, -⟩ := h.lengths
    exact ⟨halen, hd5len, hplen, toNat_length_le hl (SMAX_le _)⟩
  reserved := h.reserved
  check := h.check
  script := fun _ hk hle => zero_above_setScript .ok (hl.trans (SMAX_le _)) s _ hle hk

theorem setPayload (vs : List Byte) : (setPayload vs s).Legal where
  build := h.build
  cells := cellsLegal_fillBuffer h.cells (b := .p58) nofun
  lengths := h.lengths
  reserved := h.reserved
  check := h.check
  script := scriptZeroFilled_fillBuffer h.script (b := .p58) (by decide) vs

theorem setProgram {vs : List Byte} (hl : vs.length ≤ s.build.PMAX) : (setProgram vs s).Legal where
  build := h.build
  cells := cellsLegal_fillBuffer h.cells (b := .prog) nofun
  lengths := by
    obtain ⟨halen, hd5len, -, hslen⟩ := h.lengths
    exact ⟨halen, hd5len, toNat_length_le hl (PMAX_le _), hslen⟩
  reserved := h.reserved
  check := h.check
  script := scriptZeroFilled_fillBuffer h.script (b := .prog) (by decide) vs

theorem setD5 {vs : List Quint} (hl : vs.length ≤ s.build.DMAX) : (setD5 vs s).Legal where
  build := h.build
  cells := by
    refine cellsLegal_fillBuffer h.cells (b := .d5) fun _ v hv => ?_
    obtain ⟨q, -, rfl⟩ := List.mem_map.1 hv
    rw [BitVec.toNat_setWidth]
    omega
  lengths := by
    obtain ⟨halen, -, hplen, hslen⟩ := h.lengths
    exact ⟨halen, toNat_length_le hl (DMAX_le _), hplen, hslen⟩
  reserved := h.reserved
  check := h.check
  script := scriptZeroFilled_fillBuffer h.script (b := .d5) (by decide) _

theorem setVersion (wver wop : Byte) : State.Legal { s with wver := wver, wop := wop } :=
  ⟨h.build, h.cells, h.lengths, h.reserved, h.check, h.script⟩

theorem writeDecoded {r : Decoded} (hd : r.d5.length ≤ s.build.DMAX) (hp : r.prog.length ≤ s.build.PMAX) :
    (writeDecoded r s).Legal :=
  ((h.setVersion r.wver r.wop).setD5 hd).setProgram hp

end State.Legal

/-- What a validation answers is nested: no charset without a frame, a sum exactly where the residue is 1 (R135). -/
theorem validate_nested (str : List Byte) :
    ((validate str).charsetOk = true → (validate str).frameOk = true) ∧
    ((validate str).charsetOk = false → (validate str).residue = 0) ∧
    ((validate str).sumOk = true ↔ (validate str).charsetOk = true ∧ (validate str).residue = checksumConstant) := by
  rw [validate]
  split
  · simp
  · split
    · simp
    · split <;> simp

theorem chkstWord_bits (f c m : Bool) :
    chkstFrame (chkstWord f c m) = f ∧ chkstCharset (chkstWord f c m) = c ∧ chkstSum (chkstWord f c m) = m ∧
    (chkstWord f c m).extractLsb' 3 5 = 0 := by
  cases f <;> cases c <;> cases m <;> decide

theorem State.Legal.writeCheck {s : State} (h : s.Legal) (str : List Byte) : (writeCheck (validate str) s).Legal := by
  obtain ⟨hframe, hcharset, hsum, hzero⟩ :=
    chkstWord_bits (validate str).frameOk (validate str).charsetOk (validate str).sumOk
  refine ⟨h.build, h.cells, h.lengths, ?_, ?_, h.script⟩
  · obtain ⟨hstatus, hctrl, hargv, -, hflags⟩ := h.reserved
    exact ⟨hstatus, hctrl, hargv, hzero, hflags⟩
  · rw [State.checkNested, Machine.writeCheck, setCheck_chkst, setCheck_chkres, hframe, hcharset, hsum]
    exact validate_nested str

theorem State.Legal.checkedState {s : State} (h : s.Legal) : (checkedState s).Legal := by
  rw [Machine.checkedState]
  split
  · exact h.writeCheck _
  · exact h

/-! ## Commands -/

theorem State.Legal.decodedBech32 {s : State} (h : s.Legal) :
    (Machine.writeDecoded (bech32Result s) (Machine.checkedState s)).Legal :=
  h.checkedState.writeDecoded (by rw [checkedState_build]; exact bech32Result_d5_length_le s)
    (by rw [checkedState_build]; exact bech32Result_prog_length_le s)

theorem A2sPath.keeps_legal {s u : State} {e : Err} {vs : List Byte} (hp : A2sPath s e vs u) (h : s.Legal) :
    u.Legal := by
  rcases hp.decoded with ⟨-, rfl⟩ | ⟨-, -, p, rfl⟩ | ⟨-, -, rfl⟩
  · exact h
  · exact h.setPayload p
  · exact h.decodedBech32

/-- Every command keeps the invariant but for the outcome. -/
theorem exec_keeps_legal {i : Instr} {s t : State} (h : s.Legal) (he : exec i s = .next t) : t.Legal := by
  have hsmax : 25 ≤ s.build.SMAX := h.build.1.2
  cases i with
  | a2s =>
    obtain ⟨e, vs, u, hp, hx⟩ := exec_a2s_cases s
    obtain rfl := next_inj hx he
    have hl := hp.length_le
    exact (((hp.keeps_legal h).setScript (by rw [hp.build_eq]; omega)).clearArgv).setOutcome e
  | b58dec =>
    obtain rfl := next_inj (exec_b58dec s) he
    exact (h.setPayload _).setOutcome _
  | b32dec =>
    obtain rfl := next_inj (exec_b32dec s) he
    exact h.decodedBech32.setOutcome _
  | regrp =>
    obtain rfl := next_inj (exec_regrp s) he
    exact (h.setProgram (regroup_d5Values_length_le s)).setOutcome _
  | mkpkh | mksh | mkwp =>
    obtain ⟨vs, hlen, rfl⟩ := exec_assembler (by decide) he
    exact (h.setScript (by omega)).setOutcome _
  | chk32 =>
    obtain rfl := next_inj (exec_chk32 s) he
    exact (h.writeCheck _).setOutcome _
  | clr =>
    obtain rfl := next_inj (exec_clr s) he
    exact .reset h.build.1

/-- A command that has ended has DONE set, and no script where an argument is missing (R195). -/
theorem outcomeConsistent_setOutcome {e : Err} {s : State} (h : e = .missingArg → s.slen = 0) :
    (setOutcome e s).outcomeConsistent := by
  obtain ⟨-, hdone, hmissing⟩ := statusWord_bits e
  refine ⟨fun hnot => ?_, fun herr => h (hmissing herr)⟩
  rw [setOutcome_status, hdone] at hnot
  cases hnot

theorem exec_outcomeConsistent {i : Instr} {s t : State} (he : exec i s = .next t) : t.outcomeConsistent := by
  by_cases hi : i = .clr
  · subst hi
    obtain rfl := next_inj (exec_clr s) he
    exact outcomeConsistent_resetBlock s
  · obtain ⟨e, u, hx, hmissing⟩ := exec_ends hi s
    obtain rfl := next_inj hx he
    exact outcomeConsistent_setOutcome hmissing

/-! ## Host writes -/

/-- Setting bits 2:0 of ARGV sets no reserved bit (R24). -/
theorem argv_or_reserved {a m : Byte} (ha : a.extractLsb' 3 5 = 0) (hm : m.extractLsb' 3 5 = 0) :
    (a ||| m).extractLsb' 3 5 = 0 := by
  rw [BitVec.extractLsb'_or, ha, hm]
  rfl

/-- A narrowed byte has no reserved bit (R26, R30, R31). -/
theorem and_one_reserved (v : Byte) : (v &&& 1).extractLsb' 1 7 = 0 := by
  rw [BitVec.extractLsb'_and]
  exact BitVec.and_zero

theorem State.Legal.writeCell {s : State} (h : s.Legal) {b : Buffer} (hb : b ≠ .script) {i : Nat}
    (hi : i < b.capacity s.build) (v : Byte) : (writeCell b i v s).Legal :=
  ⟨h.build, cellsLegal_writeCell h.cells hi v, h.lengths, h.reserved, h.check,
    scriptZeroFilled_writeCell h.script hb hi v⟩

theorem State.Legal.writeLoc {s : State} (h : s.Legal) {l : Loc} (hwf : l.wellFormed s.build = true) (v : Byte) :
    (writeLoc l v s).Legal := by
  obtain ⟨hlegal, hstrict⟩ := h.build
  obtain ⟨halen, hd5len, hplen, hslen⟩ := h.lengths
  obtain ⟨hstatus, hctrl, hargv, hchkst, his, hiw⟩ := h.reserved
  cases l with
  | ctrl =>
    refine ⟨⟨hlegal, fun hs => by simp [Machine.writeLoc, ctrlNarrow, show s.build.hasStrict = false from hs]⟩, h.cells,
      h.lengths, ⟨hstatus, ?_, hargv, hchkst, his, hiw⟩, h.check, h.script⟩
    simp only [Machine.writeLoc, ctrlNarrow]
    split
    · exact and_one_reserved v
    · rfl
  | alen =>
    rw [Machine.writeLoc]
    split
    · exact ⟨h.build, h.cells, ⟨‹_›, hd5len, hplen, hslen⟩,
        ⟨hstatus, hctrl, argv_or_reserved hargv rfl, hchkst, his, hiw⟩, h.check, h.script⟩
    · exact h
  | isScript =>
    exact ⟨h.build, h.cells, h.lengths,
      ⟨hstatus, hctrl, argv_or_reserved hargv rfl, hchkst, and_one_reserved v, hiw⟩, h.check, h.script⟩
  | isWitness =>
    exact ⟨h.build, h.cells, h.lengths,
      ⟨hstatus, hctrl, argv_or_reserved hargv rfl, hchkst, his, and_one_reserved v⟩, h.check, h.script⟩
  | d5len =>
    rw [Machine.writeLoc]
    split
    · exact ⟨h.build, h.cells, ⟨halen, ‹_›, hplen, hslen⟩, h.reserved, h.check, h.script⟩
    · exact h
  | plen =>
    rw [Machine.writeLoc]
    split
    · exact ⟨h.build, h.cells, ⟨halen, hd5len, ‹_›, hslen⟩, h.reserved, h.check, h.script⟩
    · exact h
  | cell b i =>
    have hi := (lt_reach.1 (of_decide_eq_true hwf)).1
    cases b with
    | script => exact h
    | _ => exact h.writeCell (by decide) hi v
  | cmd => exact h.setCmd v
  | wop => exact h.setVersion s.wver v
  | _ => exact h

/-- No host write but that of a command byte touches what the outcome is about. -/
theorem outcomeConsistent_writeLoc {s : State} (h : s.outcomeConsistent) {l : Loc} (hc : l ≠ .cmd) (v : Byte) :
    (writeLoc l v s).outcomeConsistent := by
  cases l with
  | cmd => exact absurd rfl hc
  | alen | d5len | plen => rw [writeLoc]; split <;> exact h
  | cell b i => cases b <;> exact h
  | _ => exact h

/-! ## The step -/

theorem AcceptEffect.keeps_inv {s t : State} {i : Input} (h : AcceptEffect s i t) (hs : s.Inv) : t.Inv := by
  cases h with
  | read off => exact ⟨hs.build, hs.cells, hs.lengths, hs.reserved, hs.check, hs.script, hs.outcome⟩
  | reserved => exact hs
  | store l v hwf hc => exact (hs.legal.writeLoc hwf v).inv (outcomeConsistent_writeLoc hs.outcome hc v)
  | illegal v => exact ((hs.legal.setCmd v).setOutcome _).inv (outcomeConsistent_setOutcome nofun)
  | command j _ _ he => exact (exec_keeps_legal (hs.legal.setCmd _) he).inv (exec_outcomeConsistent he)
  | reset => exact (State.Legal.reset hs.build.1).inv (outcomeConsistent_resetBlock s)

/-- Settles O60: an idle step changes nothing, and taking the oldest input from the queue is no part of the
invariant, so each effect of an input keeps it. -/
theorem everyStepKeepsTheInvariant : Obligations.EveryStepKeepsTheInvariant := by
  intro s t hs h
  rcases step_cases h with ⟨-, rfl⟩ | ⟨i, rest, -, heff⟩
  · exact hs
  · exact heff.keeps_inv ⟨hs.build, hs.cells, hs.lengths, hs.reserved, hs.check, hs.script, hs.outcome⟩

end Sys2Proof.Machine
end

section
/-! The base58 decoder: the limbs hold the value of the string, and its payload is the value's low 25 bytes
(spec/40_base58.md R100 to R111). -/

namespace Sys2Proof.Machine

/-! ## Numbers as bytes -/

/-- Whole multiples of 256^n do not show in n bytes. -/
theorem bigEndian_add_mul (n q v : Nat) : bigEndian n (q * 256 ^ n + v) = bigEndian n v := by
  induction n generalizing q with
  | zero => rfl
  | succ n ih =>
    have hsplit : q * 256 ^ (n + 1) + v = q * 256 * 256 ^ n + v := by ring
    have hhead : (q * 256 * 256 ^ n + v) / 256 ^ n = q * 256 + v / 256 ^ n := by
      rw [Nat.add_comm, Nat.add_mul_div_right _ _ (by positivity), Nat.add_comm]
    rw [bigEndian, bigEndian, hsplit, ih, hhead]
    congr 1
    exact BitVec.eq_of_toNat_eq (by simp only [BitVec.toNat_ofNat]; omega)

theorem bigEndian_mod (n v : Nat) : bigEndian n (v % 256 ^ n) = bigEndian n v := by
  conv_rhs => rw [← Nat.div_add_mod' v (256 ^ n), bigEndian_add_mul]

theorem bigEndian_append (m n v : Nat) : bigEndian (m + n) v = bigEndian m (v / 256 ^ n) ++ bigEndian n v := by
  induction m with
  | zero => simp [bigEndian]
  | succ m ih =>
    rw [Nat.add_right_comm, bigEndian, ih, bigEndian, List.cons_append, Nat.div_div_eq_div_mul, ← Nat.pow_add,
      Nat.add_comm n m]

/-- The first byte of a number is what is left of its last n bytes. -/
theorem bigEndian_cons {n v : Nat} (u : Nat) (h : v < 256 ^ n) :
    bigEndian (n + 1) (u * 256 ^ n + v) = BitVec.ofNat 8 u :: bigEndian n v := by
  rw [bigEndian, bigEndian_add_mul, Nat.add_comm, Nat.add_mul_div_right _ _ (by positivity), Nat.div_eq_of_lt h,
    Nat.zero_add]

/-- Two runs of bytes one after the other, as numbers. -/
theorem bigEndian_append_bigEndian (m : Nat) {n : Nat} (u : Nat) {v : Nat} (h : v < 256 ^ n) :
    bigEndian m u ++ bigEndian n v = bigEndian (m + n) (u * 256 ^ n + v) := by
  have hdiv : (u * 256 ^ n + v) / 256 ^ n = u := by
    rw [Nat.add_comm, Nat.add_mul_div_right _ _ (by positivity), Nat.div_eq_of_lt h, Nat.zero_add]
  rw [bigEndian_append, hdiv, bigEndian_add_mul]

theorem bigEndian_succ (n v : Nat) : bigEndian (n + 1) v = bigEndian n (v / 256) ++ [BitVec.ofNat 8 v] := by
  rw [bigEndian_append n 1 v]
  simp [bigEndian]

theorem bigEndianValue_append_singleton (bs : List Byte) (b : Byte) :
    bigEndianValue (bs ++ [b]) = bigEndianValue bs * 256 + b.toNat := by
  rw [bigEndianValue, List.foldl_append]
  rfl

theorem bigEndianValue_lt (bs : List Byte) : bigEndianValue bs < 256 ^ bs.length := by
  induction bs using List.reverseRecOn with
  | nil => decide
  | append_singleton bs b ih =>
    have hb := b.isLt
    rw [bigEndianValue_append_singleton, List.length_append, List.length_singleton, Nat.pow_succ]
    omega

/-- The bytes of the number a byte string stands for are the string. -/
theorem bigEndian_bigEndianValue (bs : List Byte) : bigEndian bs.length (bigEndianValue bs) = bs := by
  induction bs using List.reverseRecOn with
  | nil => rfl
  | append_singleton bs b ih =>
    have hb := b.isLt
    rw [bigEndianValue_append_singleton, List.length_append, List.length_singleton, bigEndian_succ,
      show (bigEndianValue bs * 256 + b.toNat) / 256 = bigEndianValue bs by omega, ih]
    congr 2
    exact BitVec.eq_of_toNat_eq (by rw [BitVec.toNat_ofNat]; omega)

theorem bigEndianValue_bigEndian (n v : Nat) : bigEndianValue (bigEndian n v) = v % 256 ^ n := by
  induction n generalizing v with
  | zero => simp [bigEndian, bigEndianValue, Nat.mod_one]
  | succ n ih =>
    have hsplit : v % 256 ^ (n + 1) = v % 256 + 256 * (v / 256 % 256 ^ n) := by rw [Nat.pow_succ', Nat.mod_mul]
    rw [bigEndian_succ, bigEndianValue_append_singleton, ih, hsplit, BitVec.toNat_ofNat, Nat.add_comm, Nat.mul_comm]

/-! ## The limbs -/

/-- One multiply-add loses nothing: what does not stay in the limb is in the carry (R103). -/
theorem limbMulAdd_exact (l : Limb) (c : Carry) :
    (limbMulAdd l c).1.toNat + 2 ^ 32 * (limbMulAdd l c).2.toNat = l.toNat * 58 + c.toNat := by
  have hl := l.isLt
  have hc := c.isLt
  have ht : (l.setWidth 38 * 58 + c.setWidth 38 : BitVec 38).toNat = l.toNat * 58 + c.toNat := by
    simp only [BitVec.toNat_add, BitVec.toNat_mul, BitVec.toNat_setWidth, BitVec.ofNat_eq_ofNat, BitVec.reduceToNat]
    omega
  simp only [limbMulAdd, BitVec.extractLsb'_toNat, ht, Nat.shiftRight_eq_div_pow]
  omega

/-- Settles O17: the limb is below 2^32, so the exact sum splits into quotient and remainder. -/
theorem limbMultiplyAddIsExact : Obligations.LimbMultiplyAddIsExact := by
  intro l c hc
  have hexact := limbMulAdd_exact l c
  have hlow := (limbMulAdd l c).1.isLt
  have hl := l.isLt
  omega

theorem accumulatorValue_lt (a : Accumulator) : accumulatorValue a < 2 ^ 224 := by
  obtain ⟨l0, l1, l2, l3, l4, l5, l6, ovf⟩ := a
  have := l0.isLt
  have := l1.isLt
  have := l2.isLt
  have := l3.isLt
  have := l4.isLt
  have := l5.isLt
  have := l6.isLt
  simp only [accumulatorValue]
  omega

theorem limbMulAdd_of_eq {l m : Limb} {c k : Carry} (h : limbMulAdd l c = (m, k)) :
    m.toNat + 2 ^ 32 * k.toNat = l.toNat * 58 + c.toNat := by
  have hexact := limbMulAdd_exact l c
  rwa [h] at hexact

/-- One digit: the accumulator times 58 plus the digit, what leaves L[0] being the carry that OVF notes (R103, R107). -/
theorem limbStep_exact (a : Accumulator) (d : Carry) :
    ∃ c : Carry, accumulatorValue (limbStep a d) + 2 ^ 224 * c.toNat = accumulatorValue a * 58 + d.toNat ∧
      (limbStep a d).ovf = (a.ovf || decide (c ≠ 0)) := by
  rcases h6 : limbMulAdd a.l6 d with ⟨m6, c6⟩
  rcases h5 : limbMulAdd a.l5 c6 with ⟨m5, c5⟩
  rcases h4 : limbMulAdd a.l4 c5 with ⟨m4, c4⟩
  rcases h3 : limbMulAdd a.l3 c4 with ⟨m3, c3⟩
  rcases h2 : limbMulAdd a.l2 c3 with ⟨m2, c2⟩
  rcases h1 : limbMulAdd a.l1 c2 with ⟨m1, c1⟩
  rcases h0 : limbMulAdd a.l0 c1 with ⟨m0, c0⟩
  have hstep : limbStep a d = ⟨m0, m1, m2, m3, m4, m5, m6, a.ovf || decide (c0 ≠ 0)⟩ := by
    simp only [limbStep, h6, h5, h4, h3, h2, h1, h0]
  refine ⟨c0, ?_, by rw [hstep]⟩
  have e6 := limbMulAdd_of_eq h6
  have e5 := limbMulAdd_of_eq h5
  have e4 := limbMulAdd_of_eq h4
  have e3 := limbMulAdd_of_eq h3
  have e2 := limbMulAdd_of_eq h2
  have e1 := limbMulAdd_of_eq h1
  have e0 := limbMulAdd_of_eq h0
  simp only [hstep, accumulatorValue]
  omega

/-- The accumulator holds a value: the limbs modulo 2^224, and OVF says whether anything has left them (R104, R107). -/
def Accumulator.Holds (a : Accumulator) (v : Nat) : Prop :=
  accumulatorValue a = v % 2 ^ 224 ∧ (a.ovf = true ↔ 2 ^ 224 ≤ v)

theorem Accumulator.Holds.limbStep {a : Accumulator} {v : Nat} (h : a.Holds v) (d : Carry) :
    (limbStep a d).Holds (v * 58 + d.toNat) := by
  obtain ⟨hvalue, hovf⟩ := h
  obtain ⟨c, hstep, hflag⟩ := limbStep_exact a d
  have hlt := accumulatorValue_lt (Machine.limbStep a d)
  have hc : c ≠ 0 ↔ 1 ≤ c.toNat := by rw [ne_eq, ← BitVec.toNat_inj]; simp; omega
  refine ⟨by omega, ?_⟩
  rw [hflag, Bool.or_eq_true, decide_eq_true_iff, hovf, hc]
  rcases Nat.lt_or_ge v (2 ^ 224) with hv | hv
  · rw [Nat.mod_eq_of_lt hv] at hvalue
    omega
  · omega

theorem holds_foldl (ds : List Carry) {a : Accumulator} {v : Nat} (h : a.Holds v) :
    (ds.foldl limbStep a).Holds (ds.foldl (fun v d => v * 58 + d.toNat) v) := by
  induction ds generalizing a v with
  | nil => exact h
  | cons d ds ih => exact ih (h.limbStep d)

/-- After all digits the accumulator holds V. -/
theorem holds_accumulate (ds : List Carry) : (accumulate ds).Holds (b58value ds) :=
  holds_foldl ds ⟨by decide, by decide⟩

/-- Bits 31:8 of the top limb are the bits of the accumulator from 2^200 on. -/
theorem topBits_ne_zero_iff (a : Accumulator) : a.l0.extractLsb' 8 24 ≠ 0 ↔ 2 ^ 200 ≤ accumulatorValue a := by
  have htop : (a.l0.extractLsb' 8 24).toNat = a.l0.toNat / 2 ^ 8 := by
    have := a.l0.isLt
    rw [BitVec.extractLsb'_toNat, Nat.shiftRight_eq_div_pow]
    omega
  have := a.l1.isLt
  have := a.l2.isLt
  have := a.l3.isLt
  have := a.l4.isLt
  have := a.l5.isLt
  have := a.l6.isLt
  rw [ne_eq, ← BitVec.toNat_inj, htop, accumulatorValue]
  simp only [BitVec.ofNat_eq_ofNat, BitVec.reduceToNat]
  omega

theorem Accumulator.Holds.tooWide_iff {a : Accumulator} {v : Nat} (h : a.Holds v) :
    tooWide a = true ↔ 2 ^ 200 ≤ v := by
  obtain ⟨hvalue, hovf⟩ := h
  rw [tooWide, Bool.or_eq_true, decide_eq_true_iff, topBits_ne_zero_iff, hovf, hvalue]
  omega

/-- Settles O18: the accumulator holds V after the digits, and the width test reads what it holds. -/
theorem limbsHoldTheValueModulo2Pow224 : Obligations.LimbsHoldTheValueModulo2Pow224 :=
  fun _ ds _ => ⟨(holds_accumulate ds).1, (holds_accumulate ds).tooWide_iff⟩

/-! ## The payload -/

theorem limbBytes_eq (l : Limb) : limbBytes l = bigEndian 4 l.toNat := by
  simp [limbBytes, bigEndian, BitVec.extractLsb', Nat.shiftRight_eq_div_pow]

/-- The payload is the accumulator's low 25 bytes (R105). -/
theorem payloadBytes_eq (a : Accumulator) : payloadBytes a = bigEndian 25 (accumulatorValue a) := by
  have hjoin : ∀ (m u : Nat) (l : Limb), bigEndian m u ++ limbBytes l = bigEndian (m + 4) (u * 2 ^ 32 + l.toNat) :=
    fun m u l => by rw [limbBytes_eq, bigEndian_append_bigEndian m u (by exact l.isLt)]; norm_num
  have htop : a.l0.extractLsb' 0 8 :: [] = bigEndian 1 a.l0.toNat := by
    simp [bigEndian, BitVec.extractLsb']
  rw [payloadBytes, ← List.singleton_append, htop]
  simp only [← List.append_assoc, hjoin]
  exact congrArg (bigEndian 25) (by rw [accumulatorValue]; ring)

theorem Accumulator.Holds.payloadBytes_eq {a : Accumulator} {v : Nat} (h : a.Holds v) :
    payloadBytes a = bigEndian 25 v := by
  rw [Machine.payloadBytes_eq, h.1, ← bigEndian_mod 25 (v % 2 ^ 224), Nat.mod_mod_of_dvd _ (by decide), bigEndian_mod]

/-! ## B58DEC -/

theorem b58body_of_digits {str : List Byte} {ds : List Carry} {strict : Bool} (h : b58digits str = some ds)
    (hw : strict = true → b58value ds < 2 ^ 200) : b58body str strict = some (bigEndian 25 (b58value ds)) := by
  have hnarrow : (strict && tooWide (accumulate ds)) = false := by
    rw [Bool.and_eq_false_imp]
    intro hs
    rw [← Bool.not_eq_true, (holds_accumulate ds).tooWide_iff]
    exact Nat.not_le.2 (hw hs)
  simp only [b58body, h, hnarrow, Bool.false_eq_true, if_false, (holds_accumulate ds).payloadBytes_eq]

theorem b58body_strict_of_invalid {str : List Byte} (h : b58digits str = none) : b58body str true = none := by
  simp only [b58body, h, if_true]

theorem b58body_strict_of_tooWide {str : List Byte} {ds : List Carry} (h : b58digits str = some ds)
    (hw : 2 ^ 200 ≤ b58value ds) : b58body str true = none := by
  simp only [b58body, h, (holds_accumulate ds).tooWide_iff.2 hw, Bool.and_self, if_true]

theorem b58body_permissive_of_invalid {str : List Byte} (h : b58digits str = none) :
    b58body str false = some (Config.garb58 str).toList := by
  simp only [b58body, h, Bool.false_eq_true, if_false]

theorem sameExceptIn_setPayload (vs : List Byte) (s : State) : sameExceptIn [.p58] s (setPayload vs s) :=
  sameExceptIn_fillBuffer (List.mem_singleton_self _) vs s

theorem bufferIs_setPayload (vs : List Byte) (s : State) : bufferIs (setPayload vs s) .p58 vs :=
  bufferIs_of_mem (bufferIs_fillBuffer .p58 vs s) rfl rfl

/-- B58DEC on a string the decoder's body accepts. -/
theorem exec_b58dec_accepted {s : State} {p : List Byte} (h : b58body (inputString s) (strictOn s) = some p) :
    exec .b58dec s = .next (setOutcome .ok (setPayload p s)) := by
  rw [exec_b58dec, h]
  rfl

/-- B58DEC on a string the decoder's body rejects. -/
theorem exec_b58dec_rejected {s : State} (h : b58body (inputString s) (strictOn s) = none) :
    exec .b58dec s = .next (setOutcome .invalidAddress (setPayload [] s)) := by
  rw [exec_b58dec, h]
  rfl

/-- Settles O19: the datapath's payload is that of V, whose multiples of 2^200 do not show in 25 bytes. -/
theorem b58decStoresTheValueModulo2Pow200 : Obligations.B58decStoresTheValueModulo2Pow200 := by
  intro s ds hds hw
  refine ⟨_, exec_b58dec_accepted (b58body_of_digits hds hw), rfl,
    sameExceptIn_setOutcome _ (sameExceptIn_setPayload _ s), ?_⟩
  rw [show (2 : Nat) ^ 200 = 256 ^ 25 by norm_num, bigEndian_mod]
  exact bufferIs_setOutcome _ (bufferIs_setPayload _ s)

/-- Settles O20: both causes leave the body without a payload (R107). -/
theorem b58decStrictRejectsInvalidOrTooWide : Obligations.B58decStrictRejectsInvalidOrTooWide := by
  intro s hs h
  have hbody : b58body (inputString s) (strictOn s) = none := by
    rw [hs]
    rcases h with hinv | ⟨ds, hds, hw⟩
    · exact b58body_strict_of_invalid hinv
    · exact b58body_strict_of_tooWide hds hw
  exact ⟨_, exec_b58dec_rejected hbody, rfl, sameExceptIn_setOutcome _ (sameExceptIn_setPayload _ s),
    bufferIs_setOutcome _ (bufferIs_setPayload _ s)⟩

/-- Settles O21: a lookup that fails leaves the free payload (R106). -/
theorem b58decPermissiveInvalidGivesTheFreePayload : Obligations.B58decPermissiveInvalidGivesTheFreePayload := by
  intro s hs hinv
  have hbody : b58body (inputString s) (strictOn s) = some (Config.garb58 (inputString s)).toList := by
    rw [hs]
    exact b58body_permissive_of_invalid (lookupAll_eq_none.2 hinv)
  exact ⟨_, exec_b58dec_accepted hbody, rfl, sameExceptIn_setOutcome _ (sameExceptIn_setPayload _ s),
    bufferIs_setOutcome _ (bufferIs_setPayload _ s)⟩

/-- Settles O22: a payload's number is below 2^200 and its bytes are the payload (R111). -/
theorem b58decRoundTripsEveryPayload : Obligations.B58decRoundTripsEveryPayload := by
  intro s p ds hp hds hv
  have hlt : b58value ds < 2 ^ 200 := by
    have := bigEndianValue_lt p
    rw [hp] at this
    rw [hv]
    exact this.trans_eq (by norm_num)
  have hbytes : bigEndian 25 (b58value ds) = p := by rw [hv, ← hp, bigEndian_bigEndianValue]
  refine ⟨lookupAll_cons_eq_some.2 ⟨0, ds, by decide +kernel, hds, rfl⟩, rfl, _,
    exec_b58dec_accepted (b58body_of_digits hds fun _ => hlt), rfl, ?_⟩
  rw [hbytes]
  exact bufferIs_setOutcome _ (bufferIs_setPayload p s)

end Sys2Proof.Machine
end

section
/-! The regrouper: its bit buffer computes the bit-stream definition (spec/42_regroup.md R151, R152). -/

namespace Sys2Proof.Machine

/-! ## 5-bit values as a number -/

/-- The number of a list of 5-bit values shifted in behind a number. -/
def packFrom (n : Nat) (vs : List Quint) : Nat := vs.foldl (fun n v => n * 32 + v.toNat) n

theorem packFrom_cons (n : Nat) (v : Quint) (vs : List Quint) :
    packFrom n (v :: vs) = packFrom (n * 32 + v.toNat) vs := rfl

theorem packFrom_eq_add (n : Nat) (vs : List Quint) : packFrom n vs = n * 2 ^ (5 * vs.length) + packFrom 0 vs := by
  induction vs generalizing n with
  | nil => simp [packFrom]
  | cons v vs ih =>
    rw [packFrom_cons, packFrom_cons, ih, ih (0 * 32 + v.toNat), List.length_cons,
      show 5 * (vs.length + 1) = 5 * vs.length + 5 by ring, Nat.pow_add]
    ring

theorem packFrom_lt {n r : Nat} (hn : n < 2 ^ r) (vs : List Quint) : packFrom n vs < 2 ^ (r + 5 * vs.length) := by
  induction vs generalizing n r with
  | nil => exact hn
  | cons v vs ih =>
    have hv := v.isLt
    have hstep : n * 32 + v.toNat < 2 ^ (r + 5) := by rw [Nat.pow_add]; omega
    rw [packFrom_cons, List.length_cons, show r + 5 * (vs.length + 1) = r + 5 + 5 * vs.length by ring]
    exact ih hstep

/-- The bits above 2^r of the number in front come out as whole bytes, as many as there are (R151). -/
theorem packFrom_div (q : Nat) {r k e : Nat} (vs : List Quint) (h : r + 5 * vs.length = 8 * k + e) :
    packFrom q vs / 2 ^ e = q / 2 ^ r * 256 ^ k + packFrom (q % 2 ^ r) vs / 2 ^ e := by
  have hpow : 2 ^ r * 2 ^ (5 * vs.length) = 256 ^ k * 2 ^ e := by
    rw [← Nat.pow_add, h, Nat.pow_add, Nat.pow_mul]
  have hsplit : packFrom q vs = packFrom (q % 2 ^ r) vs + q / 2 ^ r * 256 ^ k * 2 ^ e := by
    rw [packFrom_eq_add q, packFrom_eq_add (q % 2 ^ r), Nat.mul_assoc _ (256 ^ k), ← hpow]
    conv_lhs => rw [← Nat.div_add_mod' q (2 ^ r)]
    ring
  rw [hsplit, Nat.add_mul_div_right _ _ (by positivity), Nat.add_comm]

/-- The first byte of a packed number, when r bits in front are left for the bytes after it. -/
theorem bigEndian_packFrom_cons (q : Nat) {r k e : Nat} (vs : List Quint) (h : r + 5 * vs.length = 8 * k + e) :
    bigEndian (k + 1) (packFrom q vs / 2 ^ e) =
      BitVec.ofNat 8 (q / 2 ^ r) :: bigEndian k (packFrom (q % 2 ^ r) vs / 2 ^ e) := by
  have hrest : packFrom (q % 2 ^ r) vs / 2 ^ e < 256 ^ k := by
    rw [Nat.div_lt_iff_lt_mul (by positivity), show 256 = 2 ^ 8 by rfl, ← Nat.pow_mul, ← Nat.pow_add, ← h]
    exact packFrom_lt (Nat.mod_lt _ (by positivity)) vs
  rw [packFrom_div q vs h, bigEndian_cons _ hrest]

/-! ## The bit buffer -/

/-- A value shifted in behind the low seven bits of RACC. -/
theorem shiftIn_toNat (racc : BitVec 12) (v : Quint) :
    ((racc <<< 5) ||| v.setWidth 12).toNat = racc.toNat % 2 ^ 7 * 32 + v.toNat := by
  have hv := v.isLt
  have hshift : (racc <<< 5).toNat = (racc.toNat % 2 ^ 7) <<< 5 := by
    rw [BitVec.toNat_shiftLeft, Nat.shiftLeft_eq, Nat.shiftLeft_eq]
    omega
  rw [BitVec.toNat_or, hshift, BitVec.toNat_setWidth, Nat.mod_eq_of_lt (by omega : v.toNat < 2 ^ 12),
    ← Nat.shiftLeft_add_eq_or_of_lt hv, Nat.shiftLeft_eq]

/-- The buffered bits after a value: those of before, then the value's five. -/
theorem shiftIn_mod (racc : BitVec 12) (v : Quint) {r : Nat} (hr : r < 8) :
    ((racc <<< 5) ||| v.setWidth 12).toNat % 2 ^ (r + 5) = racc.toNat % 2 ^ r * 32 + v.toNat := by
  have hv := v.isLt
  have hlow : (racc.toNat % 2 ^ 7 * 32 + v.toNat) % 32 = v.toNat := by omega
  have hhigh : (racc.toNat % 2 ^ 7 * 32 + v.toNat) / 32 = racc.toNat % 2 ^ 7 := by omega
  rw [shiftIn_toNat, Nat.pow_add, Nat.mul_comm (2 ^ r), Nat.mod_mul, hlow, hhigh,
    Nat.mod_mod_of_dvd _ (Nat.pow_dvd_pow 2 (by omega : r ≤ 7))]
  ring

/-- The byte emitted from a buffer of r + 8 bits. -/
theorem emitted_byte (x : BitVec 12) (r : Nat) :
    (x >>> r).setWidth 8 = BitVec.ofNat 8 (x.toNat % 2 ^ (r + 8) / 2 ^ r) := by
  apply BitVec.eq_of_toNat_eq
  rw [BitVec.toNat_setWidth, BitVec.toNat_ushiftRight, Nat.shiftRight_eq_div_pow, BitVec.toNat_ofNat, Nat.pow_add,
    Nat.mod_mul_right_div_self, Nat.mod_mod]

/-- The datapath from RBITS buffered bits on: the bytes of the buffered bits and the values, without the last bits that
fill no byte. -/
theorem regroupFrom_eq (racc : BitVec 12) {r : Nat} (vs : List Quint) (hr : r < 8) :
    regroupFrom racc r vs =
      bigEndian ((r + 5 * vs.length) / 8) (packFrom (racc.toNat % 2 ^ r) vs / 2 ^ ((r + 5 * vs.length) % 8)) := by
  induction vs generalizing racc r with
  | nil => rw [regroupFrom, List.length_nil, Nat.mul_zero, Nat.add_zero, Nat.div_eq_of_lt hr, bigEndian]
  | cons v vs ih =>
    have hlen : r + 5 * (v :: vs).length = r + 5 + 5 * vs.length := by rw [List.length_cons]; ring
    rw [regroupFrom, packFrom_cons, ← shiftIn_mod racc v hr, hlen]
    generalize (racc <<< 5) ||| v.setWidth 12 = x
    split
    case isFalse hfew => exact ih x (by omega)
    case isTrue hfull =>
      obtain ⟨r', hr'⟩ : ∃ r', r + 5 = r' + 8 := ⟨r + 5 - 8, by omega⟩
      have hlow : x.toNat % 2 ^ (r' + 8) % 2 ^ r' = x.toNat % 2 ^ r' :=
        Nat.mod_mod_of_dvd _ (Nat.pow_dvd_pow 2 (by omega))
      rw [hr', show r' + 8 + 5 * vs.length = r' + 5 * vs.length + 8 by ring, Nat.add_mod_right,
        Nat.add_div_right _ (by decide : 0 < 8), bigEndian_packFrom_cons _ vs (Nat.div_add_mod _ 8).symm, hlow,
        Nat.add_sub_cancel, ih x (by omega), emitted_byte]

theorem regroup_eq (vs : List Quint) :
    regroup vs = bigEndian (5 * vs.length / 8) (packFrom 0 vs / 2 ^ (5 * vs.length % 8)) := by
  rw [regroup]
  simpa using regroupFrom_eq 0 vs (by decide : 0 < 8)

/-! ## The bit stream -/

/-- A bit of a byte of a number. -/
theorem getLsbD_getD_bigEndian {n k j : Nat} (v : Nat) (hk : k < n) (hj : j < 8) :
    ((bigEndian n v).getD k 0).getLsbD j = v.testBit (8 * (n - 1 - k) + j) := by
  induction n generalizing k with
  | zero => omega
  | succ n ih =>
    cases k with
    | zero =>
      rw [bigEndian, List.getD_cons_zero, BitVec.getLsbD_ofNat, decide_eq_true hj, Bool.true_and,
        show 256 = 2 ^ 8 by rfl, ← Nat.pow_mul, Nat.testBit_div_two_pow, Nat.add_comm]
      rfl
    | succ k =>
      rw [bigEndian, List.getD_cons_succ, ih (by omega)]
      congr 2
      omega

/-- Bit j of the stream, counted from its end, is a bit of the number (R151). -/
theorem streamBit_eq {vs : List Quint} {j : Nat} (hj : j < 5 * vs.length) :
    streamBit vs j = (packFrom 0 vs).testBit (5 * vs.length - 1 - j) := by
  induction vs generalizing j with
  | nil => simp at hj
  | cons v vs ih =>
    have hrest : packFrom 0 vs < 2 ^ (5 * vs.length) := by simpa using packFrom_lt (r := 0) (by decide : 0 < 2 ^ 0) vs
    rw [List.length_cons] at hj ⊢
    rw [packFrom_cons, packFrom_eq_add, Nat.zero_mul, Nat.zero_add, Nat.mul_comm, Nat.testBit_two_pow_mul_add _ hrest]
    by_cases h5 : j < 5
    · rw [if_neg (by omega), streamBit, Nat.div_eq_of_lt h5, Nat.mod_eq_of_lt h5, List.getD_cons_zero,
        show 5 * (vs.length + 1) - 1 - j - 5 * vs.length = 4 - j by omega]
      rfl
    · have hshift : streamBit (v :: vs) j = streamBit vs (j - 5) := by
        rw [streamBit, streamBit, show j / 5 = (j - 5) / 5 + 1 by omega, show j % 5 = (j - 5) % 5 by omega,
          List.getD_cons_succ]
      rw [if_pos (by omega), hshift, ih (by omega)]
      congr 1
      omega

/-- Settles O23: the bytes are those of the number of the values, whose bits are the stream. -/
theorem regroupFollowsTheBitStream : Obligations.RegroupFollowsTheBitStream := by
  intro vs
  refine ⟨regroup_length vs, fun k i hk hi => ?_, ?_⟩
  · rw [regroup_eq, getLsbD_getD_bigEndian _ hk (by omega), Nat.testBit_div_two_pow, streamBit_eq (by omega)]
    congr 1
    omega
  · rw [regroup_eq, bigEndianValue_bigEndian, Nat.mod_eq_of_lt]
    · rfl
    · have hlt : packFrom 0 vs < 2 ^ (8 * (5 * vs.length / 8) + 5 * vs.length % 8) := by
        rw [Nat.div_add_mod]
        simpa using packFrom_lt (r := 0) (by decide : 0 < 2 ^ 0) vs
      rwa [Nat.div_lt_iff_lt_mul (by positivity), show 256 = 2 ^ 8 by rfl, ← Nat.pow_mul, ← Nat.pow_add]

end Sys2Proof.Machine
end

section
/-! The bech32 decoder and the checksum validator (spec/41_bech32.md R120 to R138). -/

namespace Sys2Proof.Machine

/-! ## Framing -/

theorem separator_eq_none_iff {str : List Byte} : separator str = none ↔ 0x31 ∉ str := by
  induction str with
  | nil => simp [separator]
  | cons c cs ih =>
    rw [separator, List.mem_cons, not_or, ← ih]
    cases separator cs with
    | some j => simp
    | none => simp [eq_comm]

/-- The separator is the last `'1'`. -/
theorem separator_eq_some_iff {str : List Byte} {i : Nat} :
    separator str = some i ↔ str[i]? = some 0x31 ∧ ∀ j, i < j → str[j]? ≠ some 0x31 := by
  induction str generalizing i with
  | nil => simp [separator]
  | cons c cs ih =>
    have htail : (∀ j, 0 < j → (c :: cs)[j]? ≠ some 0x31) ↔ separator cs = none := by
      rw [separator_eq_none_iff]
      refine ⟨fun h hmem => ?_, fun h j hj hc => ?_⟩
      · obtain ⟨j, hj⟩ := List.mem_iff_getElem?.1 hmem
        exact h (j + 1) (by omega) hj
      · obtain ⟨k, rfl⟩ := Nat.exists_eq_add_of_lt hj
        exact h (List.mem_iff_getElem?.2 ⟨_, by simpa using hc⟩)
    cases i with
    | zero =>
      rw [htail, separator, List.getElem?_cons_zero]
      cases separator cs <;> simp
    | succ i =>
      have hstep : separator (c :: cs) = some (i + 1) ↔ separator cs = some i := by
        rw [separator]
        cases separator cs with
        | some j => simp
        | none => simp
      rw [hstep, ih, List.getElem?_cons_succ]
      refine and_congr_right fun _ => ⟨fun h j hj => ?_, fun h j hj => ?_⟩
      · obtain ⟨k, rfl⟩ : ∃ k, j = k + 1 := ⟨j - 1, by omega⟩
        exact h k (by omega)
      · exact h (j + 1) (by omega)

theorem framing_eq_some_iff {str : List Byte} {sep : Nat} :
    framing str = some sep ↔ separator str = some sep ∧ sep + 8 ≤ str.length :=
  ⟨framing_bound, fun ⟨hs, hl⟩ => by simp only [framing, hs, if_pos hl]⟩

/-- Settles O25: the separator by its recursion, and the used data as a piece of the string. -/
theorem framingFindsTheLastOne : Obligations.FramingFindsTheLastOne := by
  refine ⟨fun _ _ => separator_eq_some_iff, fun str sep => ?_, fun str sep h => ⟨?_, usedData_length h, fun k hk => ?_⟩,
    by decide +kernel⟩
  · rw [framing_eq_some_iff]
    exact and_congr_right fun _ => by omega
  · have := (framing_bound h).2
    rw [dataLength]
    omega
  · rw [usedData, dataPart, List.getElem?_take_of_lt hk, List.getElem?_drop]

/-! ## The decoder -/

theorem b32body_of_unframed (c : Build) {str : List Byte} (h : framing str = none) : b32body c str = frameFail str := by
  simp only [b32body, h]

theorem b32body_of_invalid (c : Build) {str : List Byte} {sep : Nat} (hf : framing str = some sep)
    (hinv : ∃ x ∈ usedData str sep, b32val x = none) : b32body c str = garbageDecoded c str (dataLength str sep) := by
  simp only [b32body, hf, lookupAll_eq_none.2 hinv]

theorem bech32Accepted_of_permissive {s : State} (h : strictOn s = false) : bech32Accepted s = true := by
  rw [bech32Accepted, h]
  rfl

theorem bech32Accepted_of_strict {s : State} (h : strictOn s = true) :
    bech32Accepted s = (validate (inputString s)).sumOk := by
  rw [bech32Accepted, h]
  rfl

theorem bech32Result_of_accepted {s : State} (h : bech32Accepted s = true) :
    bech32Result s = b32body s.build (inputString s) := if_pos h

theorem bech32Result_of_rejected {s : State} (h : bech32Accepted s = false) : bech32Result s = ⟨0, 0, [], []⟩ := by
  rw [bech32Result, h]
  rfl

/-- B32DEC on a string that is accepted. -/
theorem exec_b32dec_accepted {s : State} (h : bech32Accepted s = true) :
    exec .b32dec s = .next (setOutcome .ok (writeDecoded (b32body s.build (inputString s)) (checkedState s))) := by
  rw [exec_b32dec, bech32Result_of_accepted h, if_pos h]

theorem exec_b32dec_permissive {s : State} (h : strictOn s = false) :
    exec .b32dec s = .next (setOutcome .ok (writeDecoded (b32body s.build (inputString s)) s)) := by
  rw [exec_b32dec_accepted (bech32Accepted_of_permissive h), checkedState_of_permissive h]

/-- B32DEC in strict mode on a string the validator does not pass (R136). -/
theorem exec_b32dec_rejected {s : State} (hs : strictOn s = true) (h : (validate (inputString s)).sumOk = false) :
    exec .b32dec s =
      .next (setOutcome .invalidAddress (writeDecoded ⟨0, 0, [], []⟩ (writeCheck (validate (inputString s)) s))) := by
  have hrej : bech32Accepted s = false := (bech32Accepted_of_strict hs).trans h
  rw [exec_b32dec, bech32Result_of_rejected hrej, checkedState_of_strict hs, hrej, if_neg (by decide)]

/-- What a bech32 decoder that completes writes: the result registers, STATUS and the cells of D5 and PROG. -/
theorem setOutcome_ok_writeDecoded (r : Decoded) (s : State) :
    setOutcome .ok (writeDecoded r s) =
      { s with wver := r.wver, wop := r.wop, d5len := BitVec.ofNat 8 r.d5.length,
               plen := BitVec.ofNat 8 r.prog.length, status := 0x04, mem := (writeDecoded r s).mem } := by
  apply State.eq_of_fields <;> simp [writeDecoded_eq]

/-- Settles O27: the decoder's body on a valid string is `decodeValues`. -/
theorem b32decDecodesAFramedValidString : Obligations.B32decDecodesAFramedValidString := by
  intro s sep u us hs hf hu
  have hbody := b32body_of_valid s.build hf hu
  have hlen := b32body_d5_length_le (inputString_length_le s)
  have hexec := exec_b32dec_permissive hs
  rw [hbody] at hexec hlen
  refine ⟨_, hexec, sameExceptIn_setOutcome _ (sameExceptIn_writeDecoded _ s), ?_, hlen,
    bufferIs_setOutcome _ (bufferIs_writeDecoded_d5 (decodeValues (u :: us)) s),
    bufferIs_setOutcome _ (bufferIs_writeDecoded_prog (decodeValues (u :: us)) s)⟩
  rw [← regroup_length us]
  exact setOutcome_ok_writeDecoded _ s

/-- Settles O28: the decoder's body on an unframed string is `frameFail` (R127). -/
theorem b32decUnframedGivesTwoFreeBytes : Obligations.B32decUnframedGivesTwoFreeBytes := by
  intro s hs hf
  have hexec := exec_b32dec_permissive hs
  rw [b32body_of_unframed s.build hf] at hexec
  exact ⟨_, hexec, sameExceptIn_setOutcome _ (sameExceptIn_writeDecoded _ s), setOutcome_ok_writeDecoded _ s,
    bufferIs_setOutcome _ (bufferIs_writeDecoded_d5 (frameFail (inputString s)) s),
    bufferIs_setOutcome _ (bufferIs_writeDecoded_prog (frameFail (inputString s)) s)⟩

/-- The lengths of unknown values are those the framing gives (R128). -/
theorem garbageDecoded_lengths (c : Build) (str : List Byte) {dlen : Nat} (h : dlen - 1 ≤ c.DMAX) :
    (garbageDecoded c str dlen).d5.length = dlen - 1 ∧
    (garbageDecoded c str dlen).prog.length = 5 * (dlen - 1) / 8 := by
  have hsizes := build_sizes c
  simp only [garbageDecoded, List.length_take, Vector.length_toList]
  omega

/-- Settles O29: the decoder's body on an invalid used character is `garbageDecoded` (R128). -/
theorem b32decInvalidCharacterKeepsTheLengths : Obligations.B32decInvalidCharacterKeepsTheLengths := by
  intro s sep hs hf hinv
  have hexec := exec_b32dec_permissive hs
  rw [b32body_of_invalid s.build hf hinv] at hexec
  have hfit : dataLength (inputString s) sep - 1 ≤ s.build.DMAX := by
    have := inputString_length_le s
    have := build_sizes s.build
    rw [dataLength]
    omega
  obtain ⟨hd5, hprog⟩ := garbageDecoded_lengths s.build (inputString s) hfit
  refine ⟨_, hexec, sameExceptIn_setOutcome _ (sameExceptIn_writeDecoded _ s), ?_,
    bufferIs_setOutcome _ (bufferIs_writeDecoded_d5 _ s), bufferIs_setOutcome _ (bufferIs_writeDecoded_prog _ s)⟩
  rw [setOutcome_ok_writeDecoded, hd5, hprog]
  rfl

/-! ## The validator -/

/-- A string passes exactly when it is framed, has a human-readable part and valid data, and the residue is 1 (R131 to
R136). -/
theorem validate_sumOk_iff {str : List Byte} :
    (validate str).sumOk = true ↔ ∃ sep ws, framing str = some sep ∧ sep ≠ 0 ∧
      lookupAll b32val (dataPart str sep) = some ws ∧ polymod (checkSequence (str.take sep) ws) = checksumConstant := by
  refine ⟨fun h => ?_, fun ⟨sep, ws, hf, hsep, hw, hsum⟩ => ?_⟩
  · rw [validate] at h
    split at h
    case h_1 => cases h
    case h_2 sep hf =>
      split at h
      case isTrue => cases h
      case isFalse hsep =>
        split at h
        case h_1 => cases h
        case h_2 ws hw => exact ⟨sep, ws, hf, hsep, hw, of_decide_eq_true h⟩
  · rw [validate_of_valid hf hsep hw]
    exact decide_eq_true hsum

theorem validate_of_sumOk {str : List Byte} (h : (validate str).sumOk = true) :
    validate str = ⟨true, true, true, 1⟩ := by
  obtain ⟨hframe, -, hsum⟩ := validate_nested str
  obtain ⟨hcharset, hres⟩ := hsum.1 h
  rcases hv : validate str with ⟨f, c, m, r⟩
  simp only [hv] at h hframe hcharset hres
  simp only [h, hframe hcharset, hcharset, hres, checksumConstant]

theorem validate_of_no_frame {str : List Byte} (h : framing str = none ∨ framing str = some 0) :
    validate str = ⟨false, false, false, 0⟩ := by
  rcases h with h | h <;> simp [validate, h]

theorem validate_of_invalid {str : List Byte} {sep : Nat} (hf : framing str = some sep) (hsep : sep ≠ 0)
    (hinv : ∃ c ∈ dataPart str sep, b32val c = none) : validate str = ⟨true, false, false, 0⟩ := by
  simp only [validate, hf, if_neg hsep, lookupAll_eq_none.2 hinv]

/-- The used data characters are valid when the whole data part is. -/
theorem lookupAll_usedData {str : List Byte} {sep : Nat} {ws : List Quint}
    (h : lookupAll b32val (dataPart str sep) = some ws) : ∃ us, lookupAll b32val (usedData str sep) = some us := by
  rw [← List.take_append_drop (dataLength str sep) (dataPart str sep), lookupAll_append] at h
  obtain ⟨us, -, hu, -⟩ := h
  exact ⟨us, hu⟩

/-- Settles O32: a string with SUM_OK has passed frame and charset. -/
theorem passingValidationImpliesDecodable : Obligations.PassingValidationImpliesDecodable := by
  intro str h
  obtain ⟨sep, ws, hf, hsep, hw, -⟩ := validate_sumOk_iff.1 h
  obtain ⟨us, hu⟩ := lookupAll_usedData hw
  exact ⟨sep, us, hf, by omega, hu⟩

/-- Settles O30: the decoder writes the failed check, then zero results (R120). -/
theorem b32decStrictRejectsWhatTheValidatorRejects : Obligations.B32decStrictRejectsWhatTheValidatorRejects := by
  intro s hs hsum
  have hexec := exec_b32dec_rejected hs hsum
  have hcheck := exec_chk32 s
  generalize validate (inputString s) = c at hexec hcheck
  refine ⟨_, _, hexec, hcheck,
    sameExceptIn_setOutcome _ (sameExceptIn_writeDecoded ⟨0, 0, [], []⟩ (writeCheck c s)), ?_,
    bufferIs_setOutcome _ (bufferIs_writeDecoded_d5 ⟨0, 0, [], []⟩ (writeCheck c s)),
    bufferIs_setOutcome _ (bufferIs_writeDecoded_prog ⟨0, 0, [], []⟩ (writeCheck c s))⟩
  apply State.eq_of_fields <;> simp [writeDecoded_eq, writeCheck]

/-- The results of a passing string in strict mode are those of permissive mode beside the passed check. -/
theorem setOutcome_ok_writeDecoded_writeCheck (r : Decoded) (s : State) :
    setOutcome .ok (writeDecoded r (writeCheck ⟨true, true, true, 1⟩ s)) =
      { setOutcome .ok (writeDecoded r { s with ctrl := 0 }) with ctrl := s.ctrl, chkst := 0x07, chkres := 1 } := by
  apply State.eq_of_fields <;> simp [writeDecoded_eq, writeCheck, chkstWord, fillBuffer_mem]

/-- Settles O31: strict mode writes the passed check before the results of permissive mode (R136). -/
theorem b32decStrictAcceptsLikePermissive : Obligations.B32decStrictAcceptsLikePermissive := by
  intro s hs hsum
  have hexec := exec_b32dec_accepted ((bech32Accepted_of_strict hs).trans hsum)
  rw [checkedState_of_strict hs, validate_of_sumOk hsum, setOutcome_ok_writeDecoded_writeCheck] at hexec
  exact ⟨_, exec_b32dec_permissive (s := { s with ctrl := 0 }) (by simp [strictOn, strictBit]), hexec⟩

/-- CHKST of a string that passes frame and charset (R135). -/
theorem chkstWord_of_residue (r : Residue) :
    chkstWord true true (decide (r = checksumConstant)) = if r = 1 then 0x07 else 0x03 := by
  by_cases hr : r = checksumConstant
  · rw [decide_eq_true hr]
    exact (if_pos hr).symm
  · rw [decide_eq_false hr]
    exact (if_neg hr).symm

/-- Settles O33: the four ways a validation can go (R131 to R135). -/
theorem chk32ReportsFrameCharsetAndSum : Obligations.Chk32ReportsFrameCharsetAndSum := by
  intro s
  refine ⟨_, exec_chk32 s, rfl, fun h => ?_, fun sep hf hsep => ⟨fun hinv => ?_, fun hvalid => ?_⟩⟩
  · rw [validate_of_no_frame h]
    exact ⟨rfl, rfl⟩
  · rw [validate_of_invalid hf (by omega) hinv]
    exact ⟨rfl, rfl⟩
  · obtain ⟨ws, hw⟩ := exists_lookupAll_eq_some hvalid
    have hlen : sep < (inputString s).length := by have := (framing_bound hf).2; omega
    refine ⟨_, isValueSequence_checkSequence hlen hw, ?_⟩
    rw [validate_of_valid hf (by omega) hw]
    exact ⟨rfl, chkstWord_of_residue _⟩

/-! ## The polynomial tells single values apart -/

/-- What the five bits shifted out of POLY add to bit j (R134). -/
def feedback (b0 b1 b2 b3 b4 : Bool) (j : Nat) : Bool :=
  (b0 && (gen 0).getLsbD j) ^^ (b1 && (gen 1).getLsbD j) ^^ (b2 && (gen 2).getLsbD j) ^^
    (b3 && (gen 3).getLsbD j) ^^ (b4 && (gen 4).getLsbD j)

/-- The feedback of a residue. -/
def residueFeedback (p : Residue) : Nat → Bool :=
  feedback (p.getLsbD 25) (p.getLsbD 26) (p.getLsbD 27) (p.getLsbD 28) (p.getLsbD 29)

theorem getLsbD_polyStep_feedback (p : Residue) (v : Quint) {j : Nat} (hj : j < 30) :
    (polyStep p v).getLsbD j = ((if j < 5 then v.getLsbD j else p.getLsbD (j - 5)) ^^ residueFeedback p j) := by
  rw [getLsbD_polyStep p v hj]
  simp only [residueFeedback, feedback, Bool.xor_assoc]

/-- The low five bits of the five constants GEN are linearly independent, so what is shifted out can be told from
them. -/
theorem feedback_injective : ∀ b0 b1 b2 b3 b4 c0 c1 c2 c3 c4 : Bool,
    (∀ j < 5, feedback b0 b1 b2 b3 b4 j = feedback c0 c1 c2 c3 c4 j) →
    b0 = c0 ∧ b1 = c1 ∧ b2 = c2 ∧ b3 = c3 ∧ b4 = c4 := by
  decide +kernel

theorem residueFeedback_injective {p q : Residue} (h : ∀ j < 5, residueFeedback p j = residueFeedback q j) :
    p.getLsbD 25 = q.getLsbD 25 ∧ p.getLsbD 26 = q.getLsbD 26 ∧ p.getLsbD 27 = q.getLsbD 27 ∧
    p.getLsbD 28 = q.getLsbD 28 ∧ p.getLsbD 29 = q.getLsbD 29 :=
  feedback_injective _ _ _ _ _ _ _ _ _ _ h

theorem polyStep_injective_value {p : Residue} {v w : Quint} (h : polyStep p v = polyStep p w) : v = w := by
  refine BitVec.eq_of_getLsbD_eq fun j hj => ?_
  have hbit := congrArg (·.getLsbD j) h
  simpa only [getLsbD_polyStep_feedback p _ (by omega : j < 30), if_pos hj, Bool.xor_right_inj, Bool.xor_left_inj]
    using hbit

theorem polyStep_injective_residue {p q : Residue} {v : Quint} (h : polyStep p v = polyStep q v) : p = q := by
  have hbits : ∀ j < 30, ((if j < 5 then v.getLsbD j else p.getLsbD (j - 5)) ^^ residueFeedback p j) =
      ((if j < 5 then v.getLsbD j else q.getLsbD (j - 5)) ^^ residueFeedback q j) := fun j hj => by
    rw [← getLsbD_polyStep_feedback p v hj, ← getLsbD_polyStep_feedback q v hj, h]
  have hlow : ∀ j < 5, residueFeedback p j = residueFeedback q j := fun j hj => by
    have hbit := hbits j (by omega)
    rw [if_pos hj, if_pos hj] at hbit
    exact Bool.xor_right_inj.1 hbit
  obtain ⟨h25, h26, h27, h28, h29⟩ := residueFeedback_injective hlow
  have hfeedback : residueFeedback p = residueFeedback q := by
    rw [residueFeedback, residueFeedback, h25, h26, h27, h28, h29]
  refine BitVec.eq_of_getLsbD_eq fun i hi => ?_
  by_cases hi25 : i < 25
  · have hbit := hbits (i + 5) (by omega)
    rw [hfeedback, if_neg (by omega), if_neg (by omega), Nat.add_sub_cancel] at hbit
    exact Bool.xor_left_inj.1 hbit
  · have : i = 25 ∨ i = 26 ∨ i = 27 ∨ i = 28 ∨ i = 29 := by omega
    rcases this with rfl | rfl | rfl | rfl | rfl <;> assumption

theorem foldl_polyStep_injective {p q : Residue} (vs : List Quint) (h : vs.foldl polyStep p = vs.foldl polyStep q) :
    p = q := by
  induction vs generalizing p q with
  | nil => exact h
  | cons v vs ih => exact polyStep_injective_residue (ih h)

/-- Value sequences that differ in one value have different residues. -/
theorem polymod_injective_value {us ws : List Quint} {v w : Quint}
    (h : polymod (us ++ v :: ws) = polymod (us ++ w :: ws)) : v = w := by
  rw [polymod, polymod, List.foldl_append, List.foldl_append] at h
  exact polyStep_injective_value (foldl_polyStep_injective ws h)

theorem checkSequence_append (hrp : List Byte) (us ws : List Quint) :
    checkSequence hrp (us ++ ws) = checkSequence hrp us ++ ws := by
  simp only [checkSequence, List.append_assoc]

/-! ## One changed character -/

section
variable {pre post : List Byte} {c : Byte} {sep : Nat}

/-- The separator stays where it is when a character after it is changed into another than `'1'`. -/
theorem separator_change {d : Byte} (h : separator (pre ++ c :: post) = some sep) (hsep : sep < pre.length)
    (hd : d ≠ 0x31) : separator (pre ++ d :: post) = some sep := by
  rw [separator_eq_some_iff, List.getElem?_append_left hsep] at h ⊢
  obtain ⟨hone, hlast⟩ := h
  refine ⟨hone, fun j hj => ?_⟩
  rcases Nat.lt_trichotomy j pre.length with hlt | rfl | hgt
  · rw [List.getElem?_append_left hlt]
    have := hlast j hj
    rwa [List.getElem?_append_left hlt] at this
  · rw [List.getElem?_append_right (Nat.le_refl _), Nat.sub_self, List.getElem?_cons_zero]
    exact fun he => hd (Option.some_inj.1 he)
  · obtain ⟨k, rfl⟩ := Nat.exists_eq_add_of_lt hgt
    have := hlast _ hj
    rw [List.getElem?_append_right (by omega), show pre.length + k + 1 - pre.length = k + 1 by omega,
      List.getElem?_cons_succ] at this ⊢
    exact this

/-- A passing string with one character of its data part marked. -/
theorem sumOk_parts (hs : separator (pre ++ c :: post) = some sep) (hsep : sep < pre.length)
    (h : (validate (pre ++ c :: post)).sumOk = true) :
    ∃ us v ws, lookupAll b32val (pre.drop (sep + 1)) = some us ∧ b32val c = some v ∧ lookupAll b32val post = some ws ∧
      polymod (checkSequence (pre.take sep) us ++ v :: ws) = checksumConstant := by
  obtain ⟨sep', vs, hf, -, hw, hsum⟩ := validate_sumOk_iff.1 h
  obtain rfl : sep' = sep := Option.some_inj.1 ((framing_bound hf).1.symm.trans hs)
  rw [dataPart, List.drop_append_of_le_length hsep, lookupAll_append] at hw
  obtain ⟨us, _, hu, hrest, rfl⟩ := hw
  obtain ⟨v, ws, hv, hws, rfl⟩ := lookupAll_cons_eq_some.1 hrest
  rw [List.take_append_of_le_length (Nat.le_of_lt hsep), checkSequence_append] at hsum
  exact ⟨us, v, ws, hu, hv, hws, hsum⟩

end

/-- Settles O35: were both strings to pass, their value sequences would differ in one value and have one residue. -/
theorem validatorDetectsOneChangedDataCharacter : Obligations.ValidatorDetectsOneChangedDataCharacter := by
  intro pre post c d sep hs hsep hd hne hc
  rw [← Bool.not_eq_true]
  intro hd'
  obtain ⟨us, v, ws, hu, hv, hws, hsum⟩ := sumOk_parts hs hsep hc
  obtain ⟨us', w, ws', hu', hw, hws', hsum'⟩ := sumOk_parts (separator_change hs hsep hd) hsep hd'
  obtain rfl : us = us' := Option.some_inj.1 (hu.symm.trans hu')
  obtain rfl : ws = ws' := Option.some_inj.1 (hws.symm.trans hws')
  exact hne (by rw [hv, hw, polymod_injective_value (hsum.trans hsum'.symm)])

/-! ## REGRP after the decoder -/

theorem writeDecoded_build (r : Decoded) (s : State) : (writeDecoded r s).build = s.build := by
  rw [writeDecoded_eq, setWitness_build]

/-- The values of D5 just written are what is read back (spec/10_state.md R39). -/
theorem d5Values_writeDecoded {r : Decoded} {s : State} (h : r.d5.length ≤ s.build.DMAX) :
    d5Values (writeDecoded r s) = r.d5 := by
  have hlen : (BitVec.ofNat 8 r.d5.length).toNat = r.d5.length := by
    have := DMAX_le s.build
    rw [BitVec.toNat_ofNat, Nat.mod_eq_of_lt (by omega)]
  have hd5len : (writeDecoded r s).d5len.toNat = r.d5.length := by rw [writeDecoded_eq, setWitness_d5len, hlen]
  rw [d5Values_eq_map_range (by rwa [hd5len, writeDecoded_build]), hd5len]
  refine List.ext_getElem (by simp) fun i hi hi' => ?_
  have hcap : i < Buffer.d5.capacity (writeDecoded r s).build := by rw [capacity_d5, writeDecoded_build]; omega
  rw [List.getElem_map, List.getElem_range, bufferIs_writeDecoded_d5 r s i hcap,
    List.getD_eq_getElem?_getD, List.getElem?_map, List.getElem?_eq_getElem hi']
  exact BitVec.eq_of_toNat_eq (by simp [BitVec.extractLsb'_toNat]; omega)

theorem d5Values_setOutcome (e : Err) (s : State) : d5Values (setOutcome e s) = d5Values s := rfl

/-- Writing a buffer with what it holds changes no address. -/
theorem read_fillBuffer_self {s : State} {b : Buffer} {vs : List Byte} (h : bufferIs s b vs) (a : Nat) :
    (fillBuffer b vs s).mem.read a = s.mem.read a := by
  cases ha : b.holds s.build a with
  | false => exact read_fillBuffer b vs s a ha
  | true =>
    rw [holds_iff] at ha
    obtain ⟨i, rfl⟩ := Nat.exists_eq_add_of_le ha.1
    have hi : i < b.capacity s.build := by omega
    exact (readCell_fillBuffer b vs s i hi).trans (h i hi).symm

/-- REGRP after a command that has completed, where PROG and PLEN hold the regrouped values already. -/
theorem exec_regrp_self {t : State} {p : List Byte} (hp : regroup (d5Values t) = p) (hprog : bufferIs t .prog p)
    (hplen : t.plen = BitVec.ofNat 8 p.length) (hstatus : t.status = 0x04) :
    ∃ u, exec .regrp t = .next u ∧ u = { t with mem := u.mem } ∧ ∀ a, u.mem.read a = t.mem.read a := by
  have hexec := exec_regrp t
  rw [hp] at hexec
  refine ⟨_, hexec, ?_, fun a => ?_⟩
  · apply State.eq_of_fields <;> simp [hplen, hstatus]
  · rw [setOutcome_mem, setProgram_mem]
    exact read_fillBuffer_self hprog a

/-- Settles O36: the decoder's program is the regrouping of the values it leaves in D5 (R126). -/
theorem regrpAfterB32decChangesNothing : Obligations.RegrpAfterB32decChangesNothing := by
  intro s sep us hf hu hstrict
  have hacc : bech32Accepted s = true := by
    cases hs : strictOn s with
    | false => exact bech32Accepted_of_permissive hs
    | true => exact (bech32Accepted_of_strict hs).trans (hstrict hs)
  have hexec := exec_b32dec_accepted hacc
  have hlen := b32body_d5_length_le (inputString_length_le s)
  rw [← checkedState_build s] at hlen
  rw [b32body_of_valid _ hf hu] at hexec hlen
  generalize checkedState s = x at hexec hlen
  have hvalues : d5Values (setOutcome .ok (writeDecoded (decodeValues us) x)) = us.tail :=
    (d5Values_setOutcome _ _).trans (d5Values_writeDecoded hlen)
  obtain ⟨u, hregrp, hregs, hread⟩ := exec_regrp_self (congrArg regroup hvalues)
    (bufferIs_setOutcome .ok (bufferIs_writeDecoded_prog (decodeValues us) x))
    (by rw [setOutcome_plen, writeDecoded_eq, setWitness_plen]; rfl) (setOutcome_status _ _)
  exact ⟨_, u, hexec, hregrp, hregs, hread⟩

end Sys2Proof.Machine
end

section
/-! The witness template and the entry point A2S (spec/43_script.md R162, spec/44_dispatch.md R170 to R175). -/

namespace Sys2Proof.Machine

/-! ## MKWP -/

theorem programBytes_getD {s : State} {i : Nat} (hi : i < s.plen.toNat) (h : s.plen.toNat ≤ s.build.PMAX) :
    (programBytes s).getD i 0 = readCell s .prog i := by
  have hcell := cellRange_getD s .prog 0 s.plen.toNat i (by rw [capacity_prog]; omega)
  rwa [Nat.zero_add] at hcell

theorem witnessScript_length_of_le {s : State} (wop plen : Byte) (h : s.plen.toNat ≤ s.build.PMAX) :
    (witnessScript wop plen (programBytes s)).length = 2 + s.plen.toNat := by
  rw [witnessScript_length, Nat.min_eq_left h]

/-- SCRIPT holds the opcode, the push length and the program. -/
theorem readCell_witnessScript {s t : State} (h : bufferIs t .script (witnessScript s.wop s.plen (programBytes s)))
    (hb : t.build = s.build) (hp : s.plen.toNat ≤ s.build.PMAX) :
    readCell t .script 0 = s.wop ∧ readCell t .script 1 = s.plen ∧
    (∀ i < s.plen.toNat, readCell t .script (2 + i) = readCell s .prog i) ∧
    ∀ i, 2 + s.plen.toNat ≤ i → i < s.build.SMAX → readCell t .script i = 0 := by
  have hsizes := build_sizes s.build
  rw [bufferIs, capacity_script, hb] at h
  refine ⟨h 0 (by omega), h 1 (by omega), fun i hi => ?_, fun i hlo hhi => ?_⟩
  · rw [h _ (by omega), witnessScript, Nat.add_comm]
    exact programBytes_getD hi hp
  · rw [h i hhi]
    exact List.getD_eq_default _ _ (by rw [witnessScript_length_of_le _ _ hp]; exact hlo)

/-- Settles O39: MKWP completes after `setScript` of the witness template (R162), whose length fits SLEN (R163). -/
theorem mkwpAssemblesTheWitnessScript : Obligations.MkwpAssemblesTheWitnessScript := by
  refine ⟨rfl, fun s hp => ⟨_, exec_mkwp s, sameExceptIn_setScript _ s, ?_, ?_, ?_, ?_⟩⟩
  · rw [setOutcome_ok_setScript, witnessScript_length_of_le _ _ hp, BitVec.ofNat_add, BitVec.ofNat_toNat,
      BitVec.setWidth_eq]
    rfl
  all_goals have hsizes := build_sizes s.build
  · rw [setOutcome_slen, setScript_slen, witnessScript_length_of_le _ _ hp, BitVec.toNat_ofNat]
    omega
  · rw [setOutcome_slen, setScript_slen, witnessScript_length_of_le _ _ hp, BitVec.toNat_ofNat]
    exact (Nat.mod_le _ _).trans (by omega)
  · exact readCell_witnessScript (bufferIs_setScript _ s) rfl hp

/-! ## A2S as its decoder and its template -/

/-- What a call that fails leaves, from the state its decoder left (R173, R174). -/
theorem failedCall_effect (x : State) :
    ∃ u, setOutcome .invalidAddress (clearArgv (setScript [] x)) = u ∧
      sameExceptIn [.script] (setOutcome .invalidAddress x) u ∧
      u = { setOutcome .invalidAddress x with slen := 0, argv := 0, mem := u.mem } ∧ u.status = 0x06 ∧
      bufferIs u .script [] := by
  refine ⟨_, rfl, sameExceptIn_callEnd _ (sameExceptIn_setScript [] x), ?_, setOutcome_status _ _,
    bufferIs_callEnd _ (bufferIs_setScript [] x)⟩
  apply State.eq_of_fields <;> simp

/-- A template after a decoder that has completed, as a command of its own, then ARGV cleared. -/
theorem exec_template_of_completed (x : State) :
    mapNext clearArgv (exec .mksh (setOutcome .ok x)) = .next (setOutcome .ok (clearArgv (assembleScriptHash x))) ∧
    mapNext clearArgv (exec .mkpkh (setOutcome .ok x)) = .next (setOutcome .ok (clearArgv (assemblePubkeyHash x))) ∧
    mapNext clearArgv (exec .mkwp (setOutcome .ok x)) = .next (setOutcome .ok (clearArgv (assembleWitness x))) :=
  ⟨rfl, rfl, rfl⟩

theorem status_ok_ne_invalidAddress (x : State) : (setOutcome .invalidAddress x).status ≠ 0x04 := by
  rw [setOutcome_status]
  decide

/-- Settles O41: the same decoder, then the same template, in the order of R173. -/
theorem a2sLegacyIsDecodeThenTemplate : Obligations.A2sLegacyIsDecodeThenTemplate := by
  intro s hargs hw
  have hcall := exec_a2s_legacy ((argumentsSupplied_eq_true_iff _).2 hargs) hw
  cases hb : b58body (inputString s) (strictOn s) with
  | some p =>
    rw [hb, Option.isSome_some, if_pos rfl, Option.getD_some] at hcall
    obtain ⟨hmksh, hmkpkh, -⟩ := exec_template_of_completed (setPayload p s)
    refine ⟨_, exec_b58dec_accepted hb, fun _ => ?_, fun hne => absurd rfl hne⟩
    rw [hcall, assembleLegacy, flagBit]
    cases s.isScript.getLsbD 0
    · exact hmkpkh.symm
    · exact hmksh.symm
  | none =>
    rw [hb, Option.isSome_none, if_neg (by decide)] at hcall
    obtain ⟨u, hu, heffect⟩ := failedCall_effect (setPayload [] s)
    exact ⟨_, exec_b58dec_rejected hb, fun h => absurd h (status_ok_ne_invalidAddress _),
      fun _ => ⟨u, by rw [hcall, hu], heffect⟩⟩

/-- Settles O42: the same decoder, then the same template, in the order of R174. -/
theorem a2sWitnessIsDecodeThenTemplate : Obligations.A2sWitnessIsDecodeThenTemplate := by
  intro s hargs hw
  have hcall := exec_a2s_witness ((argumentsSupplied_eq_true_iff _).2 hargs) hw
  have hdecode := exec_b32dec s
  generalize writeDecoded (bech32Result s) (checkedState s) = x at hcall hdecode
  cases ha : bech32Accepted s with
  | true =>
    rw [ha, if_pos rfl] at hcall hdecode
    obtain ⟨-, -, hmkwp⟩ := exec_template_of_completed x
    exact ⟨_, hdecode, fun _ => hcall.trans hmkwp.symm, fun hne => absurd rfl hne⟩
  | false =>
    rw [ha, if_neg (by decide)] at hcall hdecode
    obtain ⟨u, hu, heffect⟩ := failedCall_effect x
    exact ⟨_, hdecode, fun h => absurd h (status_ok_ne_invalidAddress _), fun _ => ⟨u, by rw [hcall, hu], heffect⟩⟩

/-! ## Calls from end to end -/

/-- The script of a legacy call (R173). -/
def legacyScript (toScriptHash : Bool) (hash : List Byte) : List Byte :=
  if toScriptHash then scriptHashScript hash else pubkeyHashScript hash

theorem legacyScript_length (toScriptHash : Bool) {hash : List Byte} (h : hash.length = 20) :
    (legacyScript toScriptHash hash).length = if toScriptHash then 23 else 25 := by
  cases toScriptHash <;> simp [legacyScript, scriptHashScript, pubkeyHashScript, h]

/-- A legacy call whose string is accepted: the payload, then its hash in the template. -/
theorem exec_a2s_legacy_accepted {s : State} {p : List Byte} (hargs : argumentsSupplied s.argv = true)
    (hw : flagBit s.isWitness = false) (hb : b58body (inputString s) (strictOn s) = some p) :
    exec .a2s s = .next (setOutcome .ok (clearArgv
      (setScript (legacyScript (flagBit s.isScript) ((p.drop 1).take 20)) (setPayload p s)))) := by
  simp only [exec_a2s, a2sErr, a2sScript, a2sDecoded, legacyScript, hargs, hw, hb, if_true, Bool.false_eq_true,
    if_false, Option.isSome_some, Option.getD_some]

/-- What a legacy call that completes has written. -/
theorem legacyCall_effect (p script : List Byte) (s : State) :
    ∃ t, setOutcome .ok (clearArgv (setScript script (setPayload p s))) = t ∧
      sameExceptIn [.p58, .script] s t ∧
      t = { s with argv := 0, status := 0x04, slen := BitVec.ofNat 8 script.length, mem := t.mem } ∧
      bufferIs t .p58 p ∧ bufferIs t .script script := by
  have hpayload : sameExceptIn [.p58, .script] s (setPayload p s) :=
    sameExceptIn_mono (sameExceptIn_setPayload p s) (by simp)
  have hscript : sameExceptIn [.p58, .script] (setPayload p s) (setScript script (setPayload p s)) :=
    sameExceptIn_mono (sameExceptIn_setScript script _) (by simp)
  refine ⟨_, rfl, sameExceptIn_callEnd _ (sameExceptIn_trans (setPayload_build p s) hpayload hscript), ?_,
    bufferIs_callEnd _ (bufferIs_setScript_ne (bufferIs_setPayload p s) (by decide) script),
    bufferIs_callEnd _ (bufferIs_setScript script _)⟩
  apply State.eq_of_fields <;> simp

theorem bigEndian_length (n v : Nat) : (bigEndian n v).length = n := by
  induction n with
  | zero => rfl
  | succ n ih => rw [bigEndian, List.length_cons, ih]

/-- Settles O43: the payload of the value, then its bytes 1 to 20 in the template. -/
theorem a2sLegacyScriptHoldsTheHashOfTheValue : Obligations.A2sLegacyScriptHoldsTheHashOfTheValue := by
  intro s ds _ hargs hw hds hnarrow
  have hcall := exec_a2s_legacy_accepted ((argumentsSupplied_eq_true_iff _).2 hargs) hw (b58body_of_digits hds hnarrow)
  have hvalue : bigEndian 25 (b58value ds % 2 ^ 200) = bigEndian 25 (b58value ds) := bigEndian_mod 25 (b58value ds)
  have hlen : (((bigEndian 25 (b58value ds)).drop 1).take 20).length = 20 := by
    rw [List.length_take, List.length_drop, bigEndian_length]
    decide
  obtain ⟨t, ht, hsame, hregs, hp58, hscript⟩ := legacyCall_effect (bigEndian 25 (b58value ds))
    (legacyScript (flagBit s.isScript) (((bigEndian 25 (b58value ds)).drop 1).take 20)) s
  rw [legacyScript_length _ hlen, apply_ite (BitVec.ofNat 8)] at hregs
  rw [hvalue]
  exact ⟨t, by rw [hcall, ht], hsame, hregs, hp58, hscript⟩

/-- A witness call whose string is accepted: the decoder's results, then its program in the template. -/
theorem exec_a2s_witness_accepted {s : State} (hargs : argumentsSupplied s.argv = true)
    (hw : flagBit s.isWitness = true) (ha : bech32Accepted s = true) :
    exec .a2s s = .next (setOutcome .ok (clearArgv (setScript
      (witnessScript (bech32Result s).wop (BitVec.ofNat 8 (bech32Result s).prog.length) (bech32Result s).prog)
      (writeDecoded (bech32Result s) (checkedState s))))) := by
  simp only [exec_a2s, a2sErr, a2sScript, a2sDecoded, hargs, hw, ha, if_true]

/-- What a permissive witness call that completes has written. -/
theorem witnessCall_effect (r : Decoded) (script : List Byte) (s : State) :
    ∃ t, setOutcome .ok (clearArgv (setScript script (writeDecoded r s))) = t ∧
      sameExceptIn [.d5, .prog, .script] s t ∧
      t = { s with argv := 0, status := 0x04, slen := BitVec.ofNat 8 script.length, wver := r.wver, wop := r.wop,
                   d5len := BitVec.ofNat 8 r.d5.length, plen := BitVec.ofNat 8 r.prog.length, mem := t.mem } ∧
      bufferIs t .d5 (r.d5.map (·.setWidth 8)) ∧ bufferIs t .prog r.prog ∧ bufferIs t .script script := by
  have hdecoded : sameExceptIn [.d5, .prog, .script] s (writeDecoded r s) :=
    sameExceptIn_mono (sameExceptIn_writeDecoded r s) (by simp)
  have hscript : sameExceptIn [.d5, .prog, .script] (writeDecoded r s) (setScript script (writeDecoded r s)) :=
    sameExceptIn_mono (sameExceptIn_setScript script _) (by simp)
  refine ⟨_, rfl, sameExceptIn_callEnd _ (sameExceptIn_trans (setWitness_build ..) hdecoded hscript), ?_,
    bufferIs_callEnd _ (bufferIs_setScript_ne (bufferIs_writeDecoded_d5 r s) (by decide) script),
    bufferIs_callEnd _ (bufferIs_setScript_ne (bufferIs_writeDecoded_prog r s) (by decide) script),
    bufferIs_callEnd _ (bufferIs_setScript script _)⟩
  apply State.eq_of_fields <;> simp [writeDecoded_eq]

/-- Settles O44: the decoder's results on a valid string, then its opcode, length and program in the template. -/
theorem a2sWitnessScriptHoldsTheProgram : Obligations.A2sWitnessScriptHoldsTheProgram := by
  intro s sep u us hargs hw hs hf hu
  have hacc := bech32Accepted_of_permissive hs
  have hcall := exec_a2s_witness_accepted ((argumentsSupplied_eq_true_iff _).2 hargs) hw hacc
  rw [bech32Result_of_accepted hacc, b32body_of_valid s.build hf hu, checkedState_of_permissive hs] at hcall
  obtain ⟨t, ht, hsame, hregs, hd5, hprog, hscript⟩ := witnessCall_effect (decodeValues (u :: us))
    (witnessScript (versionOpcode u) (BitVec.ofNat 8 (regroup us).length) (regroup us)) s
  refine ⟨t, hcall.trans (congrArg _ ht), hsame, ?_, hd5, hprog, ?_⟩
  · have hlen : (witnessScript (versionOpcode u) (BitVec.ofNat 8 (regroup us).length) (regroup us)).length =
        2 + 5 * us.length / 8 := by
      rw [witnessScript, List.length_append, regroup_length]
      rfl
    rw [hlen] at hregs
    rw [← regroup_length us] at hregs ⊢
    exact hregs
  · rw [regroup_length] at hscript
    exact hscript

/-- Settles O45: without strict mode no decoder fails, and with its arguments the call is not missing any. -/
theorem a2sPermissiveCallAlwaysCompletes : Obligations.A2sPermissiveCallAlwaysCompletes := by
  intro s hargs hs
  obtain ⟨e, vs, u, hp, hx⟩ := exec_a2s_cases s
  refine ⟨_, hx, ?_, rfl⟩
  cases hp with
  | missing ha => exact absurd hargs ((argumentsSupplied_eq_false_iff _).1 ha)
  | legacy | witness => rfl
  | legacyFail _ _ hstrict | witnessFail _ _ hstrict => exact absurd (hs.symm.trans hstrict) (by decide)

/-- Settles O47: the frame of A2S in registers and memory, with ARGV cleared on every path (R175). -/
theorem a2sClearsArgvAndKeepsTheArguments : Obligations.A2sClearsArgvAndKeepsTheArguments := by
  intro s
  obtain ⟨e, vs, u, -, hx⟩ := exec_a2s_cases s
  obtain ⟨-, -, hctrl, halen, his, hiw, -⟩ := commandsWriteOnlyTheirRegisters .a2s s _ (by decide) hx
  have hmem := commandsStoreOnlyInTheirBuffers .a2s s _ (by decide) hx
  exact ⟨_, hx, rfl, halen, his, hiw, hctrl,
    fun i hi => sameExceptIn_cell hmem (abuf_not_mem_buffersWritten (by decide) s) hi⟩

/-- The check that precedes a bech32 decoder neither reads nor writes ISSCRIPT. -/
theorem checkedState_isScript_change (s : State) (x : Byte) :
    checkedState { s with isScript := x } = { checkedState s with isScript := x } := by
  have hstrict : strictOn { s with isScript := x } = strictOn s := rfl
  rw [checkedState, checkedState, hstrict]
  split <;> rfl

/-- Settles O46: the witness path reads neither ISSCRIPT nor what stands in it (R172). -/
theorem a2sWitnessPathIgnoresIsScript : Obligations.A2sWitnessPathIgnoresIsScript := by
  intro s x hw hargs
  have hsupplied := (argumentsSupplied_eq_true_iff _).2 hargs
  have hcall := exec_a2s_witness hsupplied hw
  have hcall' := exec_a2s_witness (s := { s with isScript := x }) hsupplied hw
  have hacc : bech32Accepted { s with isScript := x } = bech32Accepted s := rfl
  have hres : bech32Result { s with isScript := x } = bech32Result s := rfl
  rw [hacc, hres, checkedState_isScript_change] at hcall'
  cases ha : bech32Accepted s with
  | true =>
    rw [ha, if_pos rfl] at hcall hcall'
    exact ⟨_, hcall, hcall'⟩
  | false =>
    rw [ha, if_neg (by decide)] at hcall hcall'
    exact ⟨_, hcall, hcall'⟩

end Sys2Proof.Machine
end

section
/-! A2S as a function of its inputs: a second call with the same arguments changes nothing, and nothing but the inputs
decides the result (spec/44_dispatch.md R175, spec/10_state.md R50). -/

namespace Sys2Proof.Machine

/-! ## The inputs of a call -/

/-- Two states of one build agree in what A2S reads (spec/10_state.md R50). -/
structure SameInputs (s s' : State) : Prop where
  build     : s'.build = s.build
  str       : inputString s' = inputString s
  strict    : strictOn s' = strictOn s
  supplied  : argumentsSupplied s'.argv = argumentsSupplied s.argv
  isWitness : flagBit s'.isWitness = flagBit s.isWitness
  isScript  : flagBit s'.isScript = flagBit s.isScript

namespace SameInputs

variable {s s' : State} (h : SameInputs s s')
include h

theorem bech32Accepted_eq : bech32Accepted s' = bech32Accepted s := by
  rw [bech32Accepted, bech32Accepted, h.strict, h.str]

theorem bech32Result_eq : bech32Result s' = bech32Result s := by
  rw [bech32Result, bech32Result, h.bech32Accepted_eq, h.build, h.str]

theorem a2sErr_eq : a2sErr s' = a2sErr s := by
  rw [a2sErr, a2sErr, h.supplied, h.isWitness, h.bech32Accepted_eq, h.str, h.strict]

theorem a2sScript_eq : a2sScript s' = a2sScript s := by
  rw [a2sScript, a2sScript, h.supplied, h.isWitness, h.bech32Accepted_eq, h.bech32Result_eq, h.str, h.strict,
    h.isScript]

end SameInputs

/-! ## The decoders in a call -/

theorem a2sDecoded_build (s : State) : (a2sDecoded s).build = s.build := by
  rw [a2sDecoded]
  split
  · split
    · rw [writeDecoded_eq, setWitness_build, checkedState_build]
    · rw [setPayload_build]
  · rfl

theorem a2sDecoded_witness {s : State} (ha : argumentsSupplied s.argv = true) (hw : flagBit s.isWitness = true) :
    a2sDecoded s = writeDecoded (bech32Result s) (checkedState s) := by
  rw [a2sDecoded, if_pos ha, if_pos hw]

theorem a2sDecoded_legacy {s : State} (ha : argumentsSupplied s.argv = true) (hw : flagBit s.isWitness = false) :
    a2sDecoded s = setPayload ((b58body (inputString s) (strictOn s)).getD []) s := by
  rw [a2sDecoded, if_pos ha, if_neg (by rw [hw]; decide)]

/-- The state after a call. -/
def a2sResult (s : State) : State := setOutcome (a2sErr s) (clearArgv (setScript (a2sScript s) (a2sDecoded s)))

theorem exec_a2s_eq (s : State) : exec .a2s s = .next (a2sResult s) := exec_a2s s

theorem a2sResult_build (s : State) : (a2sResult s).build = s.build := by
  rw [a2sResult, setOutcome_build, clearArgv_build, setScript_build, a2sDecoded_build]

theorem bufferIs_a2sResult_script (s : State) : bufferIs (a2sResult s) .script (a2sScript s) :=
  bufferIs_callEnd _ (bufferIs_setScript _ _)

/-- What a decoder has left in its buffers is there after the call. -/
theorem bufferIs_a2sResult_of_decoded {s : State} {b : Buffer} {vs : List Byte} (h : bufferIs (a2sDecoded s) b vs)
    (hb : b ≠ .script) : bufferIs (a2sResult s) b vs :=
  bufferIs_callEnd _ (bufferIs_setScript_ne h hb _)

theorem bufferIs_a2sResult_p58 {s : State} (ha : argumentsSupplied s.argv = true) (hw : flagBit s.isWitness = false) :
    bufferIs (a2sResult s) .p58 ((b58body (inputString s) (strictOn s)).getD []) := by
  refine bufferIs_a2sResult_of_decoded ?_ (by decide)
  rw [a2sDecoded_legacy ha hw]
  exact bufferIs_setPayload _ s

theorem bufferIs_a2sResult_d5 {s : State} (ha : argumentsSupplied s.argv = true) (hw : flagBit s.isWitness = true) :
    bufferIs (a2sResult s) .d5 ((bech32Result s).d5.map (·.setWidth 8)) := by
  refine bufferIs_a2sResult_of_decoded ?_ (by decide)
  rw [a2sDecoded_witness ha hw]
  exact bufferIs_writeDecoded_d5 _ _

theorem bufferIs_a2sResult_prog {s : State} (ha : argumentsSupplied s.argv = true) (hw : flagBit s.isWitness = true) :
    bufferIs (a2sResult s) .prog (bech32Result s).prog := by
  refine bufferIs_a2sResult_of_decoded ?_ (by decide)
  rw [a2sDecoded_witness ha hw]
  exact bufferIs_writeDecoded_prog _ _

/-- The registers the bech32 decoder has left, after the call. -/
theorem a2sResult_witness_registers {s : State} (ha : argumentsSupplied s.argv = true)
    (hw : flagBit s.isWitness = true) :
    (a2sResult s).wver = (bech32Result s).wver ∧ (a2sResult s).wop = (bech32Result s).wop ∧
    (a2sResult s).d5len = BitVec.ofNat 8 (bech32Result s).d5.length ∧
    (a2sResult s).plen = BitVec.ofNat 8 (bech32Result s).prog.length ∧
    (a2sResult s).chkst = (checkedState s).chkst ∧ (a2sResult s).chkres = (checkedState s).chkres := by
  simp [a2sResult, a2sDecoded_witness ha hw, writeDecoded_eq]

/-- The check registers of strict mode are a function of the string. -/
theorem checkedState_check_of_strict {s : State} (h : strictOn s = true) :
    (checkedState s).chkst = chkstWord (validate (inputString s)).frameOk (validate (inputString s)).charsetOk
      (validate (inputString s)).sumOk ∧
    (checkedState s).chkres = (validate (inputString s)).residue := by
  rw [checkedState_of_strict h]
  exact ⟨rfl, rfl⟩

/-! ## The result depends only on the inputs -/

/-- Buffers that hold the same run of bytes have the same cells. -/
theorem readCell_eq_of_bufferIs {t t' : State} {b : Buffer} {vs : List Byte} (hb : t'.build = t.build)
    (h : bufferIs t b vs) (h' : bufferIs t' b vs) {i : Nat} (hi : i < b.capacity t.build) :
    readCell t' b i = readCell t b i := by
  rw [h i hi, h' i (by rwa [hb])]

/-- Settles O49: every result is a function of the inputs, and states with the same inputs give the same. -/
theorem a2sResultDependsOnlyOnItsInputs : Obligations.A2sResultDependsOnlyOnItsInputs := by
  intro s s' hbuild hstr hctrl hargv hw hs
  have h : SameInputs s s' :=
    ⟨hbuild, hstr, hctrl, by rw [argumentsSupplied, argumentsSupplied, hargv], hw, hs⟩
  have hb : (a2sResult s').build = (a2sResult s).build := by rw [a2sResult_build, a2sResult_build, hbuild]
  have hcells : ∀ {b : Buffer} {vs : List Byte}, bufferIs (a2sResult s) b vs → bufferIs (a2sResult s') b vs →
      ∀ i < b.capacity s.build, readCell (a2sResult s') b i = readCell (a2sResult s) b i :=
    fun hv hv' i hi => readCell_eq_of_bufferIs hb hv hv' (by rwa [a2sResult_build])
  refine ⟨_, _, exec_a2s_eq s, exec_a2s_eq s', ?_, ?_, rfl, ?_, fun hsupplied => ?_⟩
  · rw [a2sResult, a2sResult, setOutcome_status, setOutcome_status, h.a2sErr_eq]
  · rw [a2sResult, a2sResult, setOutcome_slen, setOutcome_slen, clearArgv_slen, clearArgv_slen, setScript_slen,
      setScript_slen, h.a2sScript_eq]
  · exact hcells (bufferIs_a2sResult_script s) (by rw [← h.a2sScript_eq]; exact bufferIs_a2sResult_script s')
  · have ha := (argumentsSupplied_eq_true_iff _).2 hsupplied
    have ha' := h.supplied.trans ha
    split
    case isTrue hwit =>
      have hwit' := h.isWitness.trans hwit
      obtain ⟨hwver, hwop, hd5len, hplen, hchkst, hchkres⟩ := a2sResult_witness_registers ha hwit
      obtain ⟨hwver', hwop', hd5len', hplen', hchkst', hchkres'⟩ := a2sResult_witness_registers ha' hwit'
      have hd5' := bufferIs_a2sResult_d5 ha' hwit'
      have hprog' := bufferIs_a2sResult_prog ha' hwit'
      rw [h.bech32Result_eq] at hwver' hwop' hd5len' hplen' hd5' hprog'
      refine ⟨hwver'.trans hwver.symm, hwop'.trans hwop.symm, hd5len'.trans hd5len.symm, hplen'.trans hplen.symm,
        hcells (bufferIs_a2sResult_d5 ha hwit) hd5', hcells (bufferIs_a2sResult_prog ha hwit) hprog', fun hstrict => ?_⟩
      obtain ⟨hst, hres⟩ := checkedState_check_of_strict (s := s) hstrict
      obtain ⟨hst', hres'⟩ := checkedState_check_of_strict (s := s') (h.strict.trans hstrict)
      exact ⟨by rw [hchkst, hchkst', hst, hst', h.str], by rw [hchkres, hchkres', hres, hres', h.str]⟩
    case isFalse hleg =>
      have hleg := Bool.not_eq_true _ ▸ hleg
      have hp58' := bufferIs_a2sResult_p58 ha' (h.isWitness.trans hleg)
      rw [h.str, h.strict] at hp58'
      exact hcells (bufferIs_a2sResult_p58 ha hleg) hp58'

/-! ## The second call -/

/-- Writing a buffer with what it holds changes nothing, the memory being canonical. -/
theorem fillBuffer_self {s : State} (hwf : s.mem.wf) {b : Buffer} {vs : List Byte} (h : bufferIs s b vs) :
    fillBuffer b vs s = s := by
  have hmem := Memory.ext_of_wf (fillBuffer_keeps_wf hwf b vs) hwf (read_fillBuffer_self h)
  rw [fillBuffer_mem] at hmem
  rw [fillBuffer, hmem]

theorem setScript_self {s : State} (hwf : s.mem.wf) {vs : List Byte} (h : bufferIs s .script vs)
    (hl : s.slen = BitVec.ofNat 8 vs.length) : setScript vs s = s := by
  rw [setScript, fillBuffer_self hwf h, ← hl]

theorem setPayload_self {s : State} (hwf : s.mem.wf) {vs : List Byte} (h : bufferIs s .p58 vs) : setPayload vs s = s :=
  fillBuffer_self hwf h

theorem writeDecoded_self {s : State} (hwf : s.mem.wf) {r : Decoded} (hd5 : bufferIs s .d5 (r.d5.map (·.setWidth 8)))
    (hprog : bufferIs s .prog r.prog) (hwver : s.wver = r.wver) (hwop : s.wop = r.wop)
    (hd5len : s.d5len = BitVec.ofNat 8 r.d5.length) (hplen : s.plen = BitVec.ofNat 8 r.prog.length) :
    writeDecoded r s = s := by
  have hversion : { s with wver := r.wver, wop := r.wop } = s := by rw [← hwver, ← hwop]
  have hsetD5 : setD5 r.d5 s = s := by rw [setD5, fillBuffer_self hwf hd5, ← hd5len]
  rw [writeDecoded_eq, setWitness, hversion, hsetD5, setProgram, fillBuffer_self hwf hprog, ← hplen]

theorem checkedState_self {s : State} (h : strictOn s = true →
    s.chkst = (checkedState s).chkst ∧ s.chkres = (checkedState s).chkres) : checkedState s = s := by
  cases hs : strictOn s with
  | false => exact checkedState_of_permissive hs
  | true =>
    obtain ⟨hchkst, hchkres⟩ := h hs
    rw [checkedState_of_strict hs] at hchkst hchkres ⊢
    rw [writeCheck, setCheck_chkst] at hchkst
    rw [writeCheck, setCheck_chkres] at hchkres
    rw [writeCheck, setCheck, ← hchkst, ← hchkres]

theorem a2sDecoded_keeps_wf {s : State} (h : s.mem.wf) : (a2sDecoded s).mem.wf := by
  rw [a2sDecoded]
  split
  · split
    · rw [writeDecoded_eq, setWitness_mem]
      exact fillBuffer_keeps_wf (fillBuffer_keeps_wf (by rwa [checkedState_mem]) .d5 _) .prog _
    · exact fillBuffer_keeps_wf h .p58 _
  · exact h

theorem a2sResult_keeps_wf {s : State} (h : s.mem.wf) : (a2sResult s).mem.wf := by
  rw [a2sResult, setOutcome_mem, clearArgv_mem, setScript_mem]
  exact fillBuffer_keeps_wf (a2sDecoded_keeps_wf h) .script _

/-- Arguments supplied again: ARGV alone is written, the argument registers having been kept (R175). -/
def resupply (argv : Byte) (t : State) : State := { t with argv := argv }

theorem resupply_mem (argv : Byte) (t : State) : (resupply argv t).mem = t.mem := rfl

theorem resupply_slen (argv : Byte) (t : State) : (resupply argv t).slen = t.slen := rfl

theorem bufferIs_resupply {t : State} {b : Buffer} {vs : List Byte} (argv : Byte) (h : bufferIs t b vs) :
    bufferIs (resupply argv t) b vs := h

/-- Supplying the arguments is undone by clearing ARGV, when the outcome is the same. -/
theorem setOutcome_clearArgv_resupply {t : State} {e : Err} (argv : Byte) (ha : t.argv = 0)
    (hs : t.status = statusWord true e) : setOutcome e (clearArgv (resupply argv t)) = t := by
  rw [setOutcome, clearArgv, resupply, ← ha, ← hs]

/-- A call changes none of its inputs but ARGV. -/
theorem sameInputs_resupply (s : State) : SameInputs s (resupply s.argv (a2sResult s)) := by
  obtain ⟨t, ht, -, halen, his, hiw, hctrl, habuf⟩ := a2sClearsArgvAndKeepsTheArguments s
  obtain rfl := next_inj (exec_a2s_eq s) ht
  have hb := a2sResult_build s
  have hstr := inputString_congr hb habuf halen
  generalize a2sResult s = t at *
  exact ⟨hb, hstr, congrArg strictBit hctrl, rfl, congrArg flagBit hiw, congrArg flagBit his⟩

/-- The decoder of the second call writes what it finds. -/
theorem a2sDecoded_resupply {s : State} (hwf : s.mem.wf) (ha : argumentsSupplied s.argv = true) :
    a2sDecoded (resupply s.argv (a2sResult s)) = resupply s.argv (a2sResult s) := by
  have h := sameInputs_resupply s
  have hwf' : (resupply s.argv (a2sResult s)).mem.wf := by
    rw [resupply_mem]
    exact a2sResult_keeps_wf hwf
  have ha' := h.supplied.trans ha
  cases hw : flagBit s.isWitness with
  | false =>
    rw [a2sDecoded_legacy ha' (h.isWitness.trans hw), h.str, h.strict]
    exact setPayload_self hwf' (bufferIs_resupply _ (bufferIs_a2sResult_p58 ha hw))
  | true =>
    have hd5 := bufferIs_resupply s.argv (bufferIs_a2sResult_d5 ha hw)
    have hprog := bufferIs_resupply s.argv (bufferIs_a2sResult_prog ha hw)
    obtain ⟨hwver, hwop, hd5len, hplen, hchkst, hchkres⟩ := a2sResult_witness_registers ha hw
    generalize a2sResult s = t at *
    have hchecked : checkedState (resupply s.argv t) = resupply s.argv t := checkedState_self fun hs => by
      obtain ⟨hst, hres⟩ := checkedState_check_of_strict (h.strict.symm.trans hs)
      obtain ⟨hst', hres'⟩ := checkedState_check_of_strict hs
      rw [h.str] at hst' hres'
      exact ⟨(hchkst.trans hst).trans hst'.symm, (hchkres.trans hres).trans hres'.symm⟩
    rw [a2sDecoded_witness ha' (h.isWitness.trans hw), h.bech32Result_eq, hchecked]
    exact writeDecoded_self hwf' hd5 hprog hwver hwop hd5len hplen

/-- Settles O48: every buffer and register the second call writes holds what is written (R175). -/
theorem a2sTwiceIsA2sOnce : Obligations.A2sTwiceIsA2sOnce := by
  intro s hwf hargs
  have h := sameInputs_resupply s
  have hscript : setScript (a2sScript s) (resupply s.argv (a2sResult s)) = resupply s.argv (a2sResult s) :=
    setScript_self (by rw [resupply_mem]; exact a2sResult_keeps_wf hwf)
      (bufferIs_resupply _ (bufferIs_a2sResult_script s)) (by rw [resupply_slen]; rfl)
  have hresult : a2sResult (resupply s.argv (a2sResult s)) = a2sResult s := by
    conv_lhs => rw [a2sResult, a2sDecoded_resupply hwf ((argumentsSupplied_eq_true_iff _).2 hargs), h.a2sErr_eq,
      h.a2sScript_eq, hscript]
    exact setOutcome_clearArgv_resupply s.argv rfl rfl
  exact ⟨_, exec_a2s_eq s, (exec_a2s_eq (resupply s.argv (a2sResult s))).trans (congrArg _ hresult)⟩

end Sys2Proof.Machine
end

section
/-! `CALL` of the host-operation assembly: its accesses load the arguments and run A2S (spec/30_encoding.md R88). -/

namespace Sys2Proof.Machine

/-! ## Runs -/

/-- A run that goes on after its first n steps. -/
theorem run_add (M : Host.Core) {n : Nat} (m : Nat) {s t : M.State} (h : M.run n s = .next t) :
    M.run (n + m) s = M.run m t := by
  induction n generalizing s with
  | zero =>
    obtain rfl : s = t := by injection h
    rw [Nat.zero_add]
  | succ n ih =>
    rw [Host.Core.run] at h
    split at h
    case h_1 u hu => rw [Nat.add_right_comm, run_succ M _ s u hu, ih h]
    case h_2 => cases h
    case h_3 => cases h

theorem run_step {n : Nat} {s t : State} (h : step s = .next t) :
    Host.Core.run Sys2Proof.core (n + 1) s = Host.Core.run Sys2Proof.core n t :=
  run_succ Sys2Proof.core n s t h

/-! ## The string -/

/-- A memory in which a run of bytes stands in ABUF from cell k on, and which reads as another elsewhere. -/
structure LoadedFrom (k : Nat) (vs : List Byte) (m m' : Memory) : Prop where
  run   : ∀ i < vs.length, m'.read (Buffer.abuf.base + (k + i)) = vs.getD i 0
  other : ∀ a, a < Buffer.abuf.base + k ∨ Buffer.abuf.base + (k + vs.length) ≤ a → m'.read a = m.read a

/-- One cell written, then the cells after it. -/
theorem LoadedFrom.cons {k : Nat} {v : Byte} {vs : List Byte} {s : State} {m : Memory}
    (h : LoadedFrom (k + 1) vs (writeCell .abuf k v s).mem m) : LoadedFrom k (v :: vs) s.mem m where
  run := fun i hi => by
    cases i with
    | zero => exact (h.other _ (by omega)).trans (readCell_writeCell .abuf k v s)
    | succ i =>
      rw [List.length_cons] at hi
      rw [List.getD_cons_succ, ← h.run i (by omega), Nat.add_right_comm k 1 i, Nat.add_assoc k i 1]
  other := fun a ha => by
    rw [List.length_cons] at ha
    rw [h.other a (by omega), read_writeCell_ne .abuf k v s a (by omega)]

/-- The writes of a string to ABUF, run as steps. -/
theorem run_writeCells {k : Nat} {vs : List Byte} {s : State} {rest : List Input}
    (hk : k + vs.length ≤ Buffer.abuf.reach s.build)
    (h : s.bus = (writeCells .abuf k vs).map .access ++ rest) :
    ∃ m, Host.Core.run Sys2Proof.core vs.length s = .next { s with bus := rest, mem := m } ∧
      LoadedFrom k vs s.mem m := by
  induction vs generalizing k s with
  | nil =>
    obtain rfl : s.bus = rest := h
    exact ⟨s.mem, rfl, nofun, fun _ _ => rfl⟩
  | cons v vs ih =>
    rw [List.length_cons] at hk
    have hstep := step_writeCell (by decide) (by omega : k < Buffer.abuf.reach s.build) h
    obtain ⟨m, hrun, hloaded⟩ := ih (k := k + 1)
      (s := writeCell .abuf k v { s with bus := (writeCells .abuf (k + 1) vs).map .access ++ rest })
      (by rw [writeCell_build, Nat.add_assoc, Nat.add_comm 1]; exact hk) rfl
    exact ⟨m, (run_step hstep).trans hrun, hloaded.cons (s := { s with bus := _ })⟩

/-- The input string of a state whose ABUF has been loaded with it. -/
theorem inputString_of_loaded {text : List Byte} {m : Memory} {u : State} (h : LoadedFrom 0 text m u.mem)
    (hlen : u.alen.toNat = text.length) (hfit : text.length ≤ u.build.AMAX) : inputString u = text := by
  refine List.ext_getElem (by simp [inputString, hlen, hfit]) fun i hi hi' => ?_
  have hcell := cellRange_getElem? u .abuf 0 u.alen.toNat i (by rw [hlen, capacity_abuf]; omega)
  have hread := h.run i hi'
  rw [List.getD_eq_getElem?_getD, List.getElem?_eq_getElem hi'] at hread
  exact (List.getElem_of_getElem? hcell).2.trans hread

/-- Cells above the string, and every address outside ABUF, are as before. -/
theorem LoadedFrom.above {text : List Byte} {s u : State} (h : LoadedFrom 0 text s.mem u.mem) {i : Nat}
    (hi : text.length ≤ i) : readCell u .abuf i = readCell s .abuf i :=
  h.other _ (.inr (by omega))

theorem LoadedFrom.sameExceptIn {text : List Byte} {s u : State} (h : LoadedFrom 0 text s.mem u.mem)
    (hfit : text.length ≤ s.build.AMAX) : sameExceptIn [.abuf] s u := fun a ha => by
  have hout := ha .abuf (List.mem_singleton_self _)
  rw [← Bool.not_eq_true, holds_iff, capacity_abuf] at hout
  exact h.other a (by omega)

/-! ## The call -/

/-- The accesses of a call: the string, its length, the two flags, the command (R88). -/
theorem programInputs_call (text : List Byte) (f w : Byte) (rest : List Input) :
    programInputs [.call text f w] ++ rest =
      (writeCells .abuf 0 text).map .access ++
        (.access (.write Loc.alen.offset (BitVec.ofNat 8 text.length)) ::
          .access (.write Loc.isScript.offset f) :: .access (.write Loc.isWitness.offset w) ::
          commandInput (encodeByte .a2s) :: rest) := by
  simp [programInputs, HostLine.expand, loadAddress, loadFlags, issue, commandInput]

/-- The four accesses after the string: each stores its argument and sets its bit of ARGV, and the last one runs A2S. -/
theorem run_arguments {s : State} {len f w : Byte} {rest : List Input} (hlen : len.toNat ≤ s.build.AMAX)
    (h : s.bus = .access (.write Loc.alen.offset len) :: .access (.write Loc.isScript.offset f) ::
      .access (.write Loc.isWitness.offset w) :: commandInput (encodeByte .a2s) :: rest) :
    Host.Core.run Sys2Proof.core 4 s = exec .a2s { s with
      bus := rest, cmd := 0x01, alen := len, isScript := f &&& 1, isWitness := w &&& 1, argv := s.argv ||| 0b111 } := by
  have hargv : s.argv ||| argvA ||| argvS ||| argvW = s.argv ||| 0b111 := by
    rw [BitVec.or_assoc, BitVec.or_assoc]
    rfl
  have halen := step_writeLoc (l := .alen) rfl (by decide) h
  rw [writeLoc, if_pos hlen] at halen
  rw [run_step halen, run_step (step_writeLoc (l := .isScript) rfl (by decide) rfl),
    run_step (step_writeLoc (l := .isWitness) rfl (by decide) rfl)]
  refine ((run_one Sys2Proof.core _).trans (step_command rfl rfl rfl)).trans ?_
  simp only [writeLoc, hargv]
  rfl

/-- Settles O50: the string is loaded cell by cell, then the arguments, and the last access is the command. -/
theorem callLoadsTheArgumentsAndRunsA2s : Obligations.CallLoadsTheArgumentsAndRunsA2s := by
  intro s text f w rest hfit hwindow hbus
  have hamax := (build_sizes s.build).1
  have hreach : 0 + text.length ≤ Buffer.abuf.reach s.build := by
    rw [Buffer.reach, capacity_abuf, Nat.zero_add]
    exact Nat.le_min.2 ⟨hfit, hwindow⟩
  have hlen : (BitVec.ofNat 8 text.length).toNat = text.length := by
    rw [BitVec.toNat_ofNat, Nat.mod_eq_of_lt (by omega)]
  rw [programInputs_call] at hbus
  obtain ⟨m, hrun, hloaded⟩ := run_writeCells hreach hbus
  refine ⟨_, (run_add Sys2Proof.core 4 hrun).trans (run_arguments (hlen.trans_le hfit) rfl), ?_, ?_, ?_, rfl⟩
  · exact inputString_of_loaded hloaded hlen hfit
  · exact hloaded.sameExceptIn hfit
  · exact fun i hi _ => hloaded.above hi

end Sys2Proof.Machine
end
